-- ==== Sys2Proof/Word.lean ====
section
/-! DEFINITION. The words the block works on (00_scope.md R9, R10; 30_encoding.md R70, R71) and the five
block types. A bit vector's bit 0 is its least significant bit (R10), so `w.getLsbD i` is the spec's `w[i]`. -/

namespace Sys2Proof

/-- One port sample as the model's input stream carries it (notes/assumptions/1.md). -/
abbrev Byte := BitVec 8

/-- A 26-bit block word: payload in bits 25..10, check field in bits 9..0 (R71). -/
abbrev BlockWord := BitVec 26

/-- A 10-bit syndrome, check field, offset word or polynomial (R7, R14). -/
abbrev Word10 := BitVec 10

/-- A 16-bit block payload (R71). -/
abbrev Payload := BitVec 16

/-- The 3-bit command `CMD[2:0]` (R64). -/
abbrev Cmd := BitVec 3

/-- A 3-bit slot select `RD_SEL[2:0]` (R67) or block-type code (R70). -/
abbrev Code := BitVec 3

/-- The block types, in the order R70 makes architectural: A, B, C, C′, D. -/
inductive BlockType where
  | a
  | b
  | c
  | cp
  | d
deriving DecidableEq, Repr

end Sys2Proof
end

