-- ==== Sys2Proof/Config.lean ====
section
/-! DEFINITION. What is fixed when the block is built: the constants of 00_scope.md R7 and the parameters of
R8. `PLATFORM_MAP` and `PLATFORM_IRQ` belong to the platform (R8, U10) and have no counterpart here. -/

namespace Sys2Proof

/-- The parameter OFFSET of R8: one 10-bit offset word for each block type (R72). -/
structure OffsetTable where
  a  : Word10
  b  : Word10
  c  : Word10
  cp : Word10
  d  : Word10
deriving DecidableEq, Repr

/-- The parameters of R8 that belong to the block (the `Params` of R130, and N_RD_PORTS). Every operation takes
them as an argument (Machine/Configured.lean); `exec` and `step` run under `Config.params`. -/
structure Params where
  /-- OFFSET (R72, D7). -/
  offset            : OffsetTable
  /-- A_BREAKS_CONTINUITY (R117, D11). -/
  aBreaksContinuity : Bool
  /-- D_REQUIRES_FULL (R117, D12). -/
  dRequiresFull     : Bool
  /-- N_RD_PORTS (20_memory.md R50, D14). -/
  nRdPorts          : Nat
deriving DecidableEq, Repr

namespace Config

/-- BLOCK_LEN (R7). -/
def blockLen : Nat := 26

/-- DATA_LEN (R7). -/
def dataLen : Nat := 16

/-- POLY_LEN (R7). -/
def polyLen : Nat := 10

/-- SYNC_MAX (R7). -/
def syncMax : Nat := 4

/-- TRAP_WIDTH (R7). -/
def trapWidth : Nat := 5

/-- N_TYPES (R7): the constructors of `BlockType`. -/
def nTypes : Nat := 5

/-- LFSR_POLY (R7). -/
def lfsrPoly : Word10 := 0b0110111001#10

/-- IN_POLY (R7). -/
def inPoly : Word10 := 0b1100011011#10

/-- The default offset words of R72. PRESUMED by the spec (R72, G1: general knowledge, not in its source);
see notes/assumptions/6.md. -/
def defaultOffset : OffsetTable :=
  { a := 0x0FC#10, b := 0x198#10, c := 0x168#10, cp := 0x350#10, d := 0x1B4#10 }

/-- The parameters this machine is built with: R8's defaults (notes/assumptions/6.md, 7.md, 8.md). -/
def params : Params :=
  { offset := defaultOffset, aBreaksContinuity := true, dRequiresFull := false, nRdPorts := 1 }

end Config
end Sys2Proof
end

