-- ==== Sys2Proof/Syntax.lean ====
section
/-! DEFINITION. The four operations of spec/opcode_table.json: RESET, IDLE and SYM on the command port
(30_encoding.md R64) and READ on a read port (R67). -/

namespace Sys2Proof

/-- One operation. The command port's ignored bits (R64's `x`) are no operands. -/
inductive Instr where
  /-- RESET, `CMD = 1xx` (42_control.md R132). -/
  | reset
  /-- IDLE, `CMD = 00x` (R131). -/
  | idle
  /-- SYM b, `CMD = 01b` (41_synchronizer.md R106). -/
  | sym (b : Bool)
  /-- READ, `RD_SEL = sel` on read port number `port` (R133; 20_memory.md R50 gives N_RD_PORTS identical ports, numbered
  from 0). -/
  | read (port : Nat) (sel : Code)
deriving DecidableEq, Repr

end Sys2Proof
end

