-- ==== Sys2Proof/WellFormed.lean ====
section
/-! DEFINITION. Which operations a frame can carry, and which of them a block built with given parameters has. All
eight selects are legal operands of a READ: 5, 6 and 7 read as zero (20_memory.md R51). -/

namespace Sys2Proof

/-- The operation fits a frame (Decode.lean): a READ's port number has four bits there
(notes/assumptions/1.md, 8.md). -/
def Instr.wf : Instr → Bool
  | .reset => true
  | .idle => true
  | .sym _ => true
  | .read port _ => decide (port < 16)

/-- A block built with `p` has the operation: every command, and a READ on one of its N_RD_PORTS ports
(20_memory.md R50). -/
def Instr.present (p : Params) : Instr → Bool
  | .reset => true
  | .idle => true
  | .sym _ => true
  | .read port _ => decide (port < p.nRdPorts)

end Sys2Proof
end

