-- ==== Sys2Proof/Decode.lean ====
section
/-! DEFINITION. The encodings: the command port (30_encoding.md R64 to R66), the read select (R67), the
block-type codes (R70), and the model's own framing of a port sample in one byte (notes/assumptions/1.md):

| bits 7..4 | bit 3 | bits 2..0 |
|---|---|---|
| 0000 | 0 | a command sample, `CMD[2:0]` |
| read port number | 1 | a read select, `RD_SEL[2:0]` |

For a command the byte is the word of opcode_table.json (format CMD3) itself. -/

namespace Sys2Proof

/-! ### Block-type codes (R70) -/

/-- The code of a block type (R70). -/
def BlockType.code : BlockType → Code
  | .a => 0#3
  | .b => 1#3
  | .c => 2#3
  | .cp => 3#3
  | .d => 4#3

/-- The block type of a code; codes 5, 6 and 7 are reserved (R70). -/
def BlockType.ofCode (c : Code) : Option BlockType :=
  match c.toNat with
  | 0 => some .a
  | 1 => some .b
  | 2 => some .c
  | 3 => some .cp
  | 4 => some .d
  | _ => none

/-! ### The command port (R64, R65) -/

/-- The wire `RST = CMD[2]`. -/
def cmdRst (c : Cmd) : Bool := c.getLsbD 2

/-- The wire `SYM_VALID = CMD[1]`. -/
def cmdSymValid (c : Cmd) : Bool := c.getLsbD 1

/-- The wire `SYM = CMD[0]`, SYM's operand `b`. -/
def cmdSym (c : Cmd) : Bool := c.getLsbD 0

/-- The operation of a command (R64). RST has priority over a symbol; SYM is ignored when SYM_VALID is 0
(R65). Every value selects an operation (R66). -/
def decodeCommand (c : Cmd) : Instr :=
  if cmdRst c then .reset
  else if cmdSymValid c then .sym (cmdSym c)
  else .idle

/-- A row of opcode_table.json's CMD3 format (R79). -/
structure OpcodeRow where
  mnemonic : String
  pattern  : Cmd
  mask     : Cmd
deriving DecidableEq, Repr

/-- The CMD3 rows of opcode_table.json. -/
def opcodeRows : List OpcodeRow :=
  [ { mnemonic := "RESET", pattern := 0b100#3, mask := 0b100#3 },
    { mnemonic := "IDLE", pattern := 0b000#3, mask := 0b110#3 },
    { mnemonic := "SYM", pattern := 0b010#3, mask := 0b110#3 } ]

/-- The command `c` is one of the row's words. -/
def OpcodeRow.matchesCmd (r : OpcodeRow) (c : Cmd) : Bool := (c &&& r.mask) == r.pattern

/-! ### Frames -/

/-- Why a byte string is no operation. -/
inductive DecodeError where
  /-- No byte is left. -/
  | noFrame
  /-- A command frame whose bits 7..4 are not zero: it is no sample of the command port. -/
  | reservedFrameBits
deriving DecidableEq, Repr

/-- The operation of one frame, or the reason it is none (42_control.md R135). Whether the block has the port a
read frame names is for READ to say (Machine/Control.lean). -/
def decodeFrame (f : Byte) : Except DecodeError Instr :=
  if f.getLsbD 3 then .ok (.read (f.extractLsb' 4 4).toNat (f.extractLsb' 0 3))
  else if f.extractLsb' 4 4 = 0#4 then .ok (decodeCommand (f.extractLsb' 0 3))
  else .error .reservedFrameBits

/-- The first operation of a byte string, and the bytes after it. Every operation is one frame (R68). -/
def decode : List Byte → Except DecodeError (Instr × List Byte)
  | [] => .error .noFrame
  | f :: rest =>
    match decodeFrame f with
    | .ok i => .ok (i, rest)
    | .error e => .error e

/-- The frame that carries a command. -/
def commandFrame (c : Cmd) : Byte := c.setWidth 8

/-- The frame that carries a select of read port `port`. -/
def readFrame (port : Nat) (sel : Code) : Byte := BitVec.ofNat 4 port ++ 1#1 ++ sel

/-- The bytes of a well-formed operation; a command's ignored bits are 0, as in R77 (notes/assumptions/10.md). -/
def encode : Instr → List Byte
  | .read port sel => [readFrame port sel]
  | .reset => [commandFrame 0b100#3]
  | .idle => [commandFrame 0b000#3]
  | .sym b => [commandFrame (if b then 0b011#3 else 0b010#3)]

/-- The bytes of a table word: its low `nbits` bits, the first byte the lowest. -/
def tableBytes (nbits w : Nat) : List Byte :=
  (List.range ((nbits + 7) / 8)).map fun k => BitVec.ofNat 8 (w % 2 ^ nbits / 2 ^ (8 * k))

/-- The operation the decoder reads from a word numbered as opcode_table.json numbers it. The table's READ row
fixes no bit, so the words of READ are told from commands by the frame's bit 3 alone. -/
def decodeTableWord (nbits w : Nat) : Option Instr :=
  match decode (tableBytes nbits w) with
  | .ok (i, _) => some i
  | .error _ => none

end Sys2Proof
end

