-- ==== Sys2Proof/Machine/State.lean ====
section
/-! DEFINITION. The state of the machine: the 219-bit tuple of 10_state.md R38, register by register, and two
fields of the model's own that hold what the outside drives on the block's input ports. -/

namespace Sys2Proof.Machine

/-- One entry of the slot file (10_state.md R26): 27 bits. -/
structure Slot where
  /-- SLOT_W[t]: the 26-bit word the corrector returned. -/
  word  : BlockWord
  /-- SLOT_A[t]: the availability flag. -/
  avail : Bool
deriving DecidableEq, Repr

/-- The slot file (R26), the block's only address space (20_memory.md R48): one entry for each block type.
notes/assumptions/13.md. -/
structure SlotFile where
  a  : Slot
  b  : Slot
  c  : Slot
  cp : Slot
  d  : Slot
deriving DecidableEq, Repr

/-- The machine's state. The registers keep the widths R21 to R28 give them, so a state can hold a value the
spec calls unreachable (R22 to R25); Machine/Ops.lean says what such a state answers. -/
structure State where
  /-- SR (R21): the last 26 symbols, the newest in bit 0. -/
  sr     : BlockWord
  /-- SYNC (R22): the confidence counter, legal 0 to 4. -/
  sync   : BitVec 3
  /-- SKIP (R23): symbols to the next block test, legal 0 to 26. -/
  skip   : BitVec 5
  /-- LAST (R24): the type code of the last committed block, legal 0 to 4. -/
  last   : Code
  /-- CG (R25): `contGroup`, legal 0 to 2. -/
  cg     : BitVec 2
  /-- SLOT_W[0..4] and SLOT_A[0..4] (R26). -/
  slots  : SlotFile
  /-- O_VALID (R27): the commit strobe. -/
  oValid : Bool
  /-- O_TYPE (R27), legal 0 to 4. -/
  oType  : Code
  /-- O_WORD (R27). -/
  oWord  : BlockWord
  /-- O_AVAIL (R27). -/
  oAvail : Bool
  /-- O_KNOWN (R27, R30). -/
  oKnown : Bool
  /-- O_SYN (R27). -/
  oSyn   : Word10
  /-- O_EVA (R28): decode block A. -/
  oEva   : Bool
  /-- O_EVB (R28): decode block B in isolation. -/
  oEvb   : Bool
  /-- O_EVG (R28): group complete. -/
  oEvg   : Bool
  /-- The model's own: the level each reader drives on its port's RD_SEL wires (20_memory.md R50), port 0 first; the
  wires of a port not listed are low (`State.rdLevel`), so the list serves any N_RD_PORTS. RD_WORD and RD_AVAIL are
  views of it and of the slots (Machine/Status.lean). notes/assumptions/2.md. -/
  rdSel  : List Code
  /-- The model's own: the port samples still to come, oldest first, one frame each (Decode.lean).
  notes/assumptions/1.md. -/
  inputs : List Byte
deriving DecidableEq, Repr

/-- Why the machine faults: never. 60_exceptions.md R141: the block raises no exception, trap or fault, so there
is no constructor. Safe: nothing can be proved of a fault that cannot be built. notes/assumptions/14.md. -/
inductive Fault where
deriving DecidableEq, Repr

/-- Why a step is refused. Every refusal is safe: it proves nothing about what the hardware does next. -/
inductive Refusal where
  /-- Raised by an arm of `exec` for an operation that has no meaning yet; no arm does. Safe. -/
  | notModelled (mnemonic : String)
  /-- Raised by `step` when no port sample is left: there is no further clock edge and no further read to
  compute. Safe: the hardware's next input is not known. notes/assumptions/3.md. -/
  | noSample
  /-- Raised by `step` on a byte that is no sample of a port (42_control.md R135: "A model must refuse any
  command it cannot place in rules R106, R131, R132 and R133"). Safe. notes/assumptions/9.md. -/
  | notASample (reason : DecodeError)
  /-- Raised by IDLE, SYM and READ in a state that holds a value no run from RESET reaches (93 U3, U5: a model
  refuses such states). Safe. notes/assumptions/5.md. -/
  | unreachableState
  /-- Raised by every operation under a configuration whose five type syndromes are not distinct
  (40_corrector.md R93: a model "must refuse a configuration in which they are not"). Safe.
  notes/assumptions/11.md. -/
  | indistinctSyndromes
  /-- Raised by READ on a port number not below N_RD_PORTS (20_memory.md R50). Safe. notes/assumptions/8.md. -/
  | absentReadPort
deriving DecidableEq, Repr

/-- What an operation answers. -/
abbrev Answer := Host.Outcome State Fault Refusal

/-- A slot right after RESET (R35). -/
def Slot.reset : Slot := { word := 0#26, avail := false }

/-- The slot file right after RESET (R35). -/
def SlotFile.reset : SlotFile :=
  { a := Slot.reset, b := Slot.reset, c := Slot.reset, cp := Slot.reset, d := Slot.reset }

/-- The machine right after RESET (R35): every register 0, LAST = A. The two fields of the model's own are no
registers of the block: no sample is pending and every select wire is low (DESIGN CHOICE,
notes/assumptions/2.md and 4.md). The state before the first RESET has no values (70_reset_and_hazards.md R162;
notes/assumptions/12.md). -/
def State.reset : State :=
  { sr := 0#26, sync := 0#3, skip := 0#5, last := 0#3, cg := 0#2
    slots := SlotFile.reset
    oValid := false, oType := 0#3, oWord := 0#26, oAvail := false, oKnown := false, oSyn := 0#10
    oEva := false, oEvb := false, oEvg := false
    rdSel := [], inputs := [] }

end Sys2Proof.Machine
end

