-- ==== Sys2Proof/Machine/Operands.lean ====
section
/-! DEFINITION. Operand forms and the fields of a block word (30_encoding.md R71, R76). Operands have fixed bit
sources: SYM's `b` is CMD[0] and READ's select is RD_SEL[2:0] (both taken by Decode.lean); the corrector's are
the window and a type. -/

namespace Sys2Proof.Machine

/-- `sext`, scaling and immediates do not occur (R76); a 10-bit quantity is zero-extended to a block word. -/
def zext26 (v : Word10) : BlockWord := v.setWidth 26

/-- The payload `w[25:10]` (R71). -/
def payload (w : BlockWord) : Payload := w.extractLsb' 10 16

/-- The check field `w[9:0]` (R71). -/
def checkField (w : BlockWord) : Word10 := w.extractLsb' 0 10

/-- The block word `{P, c}` (R71). -/
def mkBlock (p : Payload) (c : Word10) : BlockWord := p ++ c

/-- The window after one more symbol: `trunc_26((SR << 1) | b)` (41_synchronizer.md R107). -/
def shiftIn (sr : BlockWord) (b : Bool) : BlockWord := (sr <<< 1) ||| (BitVec.ofBool b).setWidth 26

/-- The low TRAP_WIDTH bits of a syndrome register are zero (R7; 40_corrector.md R95, `s[4:0] == 0`). -/
def lowZero (s : Word10) : Bool := s.extractLsb' 0 Config.trapWidth == 0#Config.trapWidth

/-- The skip count after a symbol, saturating at 0 (R112). -/
def skipAfter (skip : BitVec 5) : Nat := skip.toNat - 1

/-- The confidence counter after a block test (R111). -/
def syncAfter (sync : BitVec 3) (known : Bool) : Nat :=
  if known then min (sync.toNat + 1) Config.syncMax else sync.toNat - 1

end Sys2Proof.Machine
end

