-- ==== Sys2Proof/Machine/Corrector.lean ====
section
/-! DEFINITION. The cyclic block corrector (40_corrector.md): syndrome, offset removal, type syndromes, and the
error-trapping walk. All of it is combinational: total functions that read and write no state (R104). -/

namespace Sys2Proof.Machine

/-- The shift of the syndrome register with its feedback (R86, first half of a bit step). -/
def lfsrShift (s : Word10) : Word10 :=
  if s.getLsbD 9 then (s <<< 1) ^^^ Config.lfsrPoly else s <<< 1

/-- One bit step of R86: shift with feedback, then the input tap. -/
def syndromeStep (s : Word10) (bit : Bool) : Word10 :=
  if bit then lfsrShift s ^^^ Config.inPoly else lfsrShift s

/-- The bit steps for bits n-1 down to 0 of `w`. -/
def syndromeFrom (w : BlockWord) : Nat → Word10 → Word10
  | 0, s => s
  | n + 1, s => syndromeFrom w n (syndromeStep s (w.getLsbD n))

/-- SYNDROME (R86): bits 25 down to 0, from a zero register. -/
def syndrome (w : BlockWord) : Word10 := syndromeFrom w Config.blockLen 0#10

/-- OFFSET[t] (R72). -/
def offsetOf (p : Params) : BlockType → Word10
  | .a => p.offset.a
  | .b => p.offset.b
  | .c => p.offset.c
  | .cp => p.offset.cp
  | .d => p.offset.d

/-- OFFSET-REMOVE (R91). -/
def unoffset (p : Params) (w : BlockWord) (t : BlockType) : BlockWord := w ^^^ zext26 (offsetOf p t)

/-- SYNTAB[t] (R93), derived from the offset as R73 asks. -/
def synTab (p : Params) (t : BlockType) : Word10 := syndrome (zext26 (offsetOf p t))

/-- The five type syndromes, in the order of R94. -/
def synTabs (p : Params) : List Word10 :=
  [synTab p .a, synTab p .b, synTab p .c, synTab p .cp, synTab p .d]

/-- The check R93 asks of a configuration: the five type syndromes are distinct. -/
def syndromesDistinct (p : Params) : Bool := decide (synTabs p).Nodup

/-- The registers of the correction walk (R95): `s`, `out` and the latch `found`. -/
structure Walk where
  s     : Word10
  out   : BlockWord
  found : Bool
deriving DecidableEq, Repr

/-- One step of the walk, for data bit i+10 (R95): test the trap, repair the bit that leaves the register once
the trap has latched, and shift, with feedback only until the trap. -/
def walkStep (i : Nat) (x : Walk) : Walk :=
  let found := x.found || lowZero x.s
  { s := if found then x.s <<< 1 else lfsrShift x.s
    out := if found && x.s.getLsbD 9 then x.out ^^^ (1#26 <<< (i + 10)) else x.out
    found := found }

/-- The walk's steps for i = n-1 down to 0. -/
def walkFrom : Nat → Walk → Walk
  | 0, x => x
  | n + 1, x => walkFrom n (walkStep n x)

/-- The whole walk: DATA_LEN steps, none when the syndrome is zero (R95). -/
def walk (v : BlockWord) : Walk :=
  let x : Walk := { s := syndrome v, out := v, found := false }
  if syndrome v = 0#10 then x else walkFrom Config.dataLen x

/-- CORRECT (R95): the corrected word, and `recovered` as the slot's availability. -/
def correct (p : Params) (w : BlockWord) (t : BlockType) : Slot :=
  let x := walk (unoffset p w t)
  { word := x.out, avail := lowZero x.s }

end Sys2Proof.Machine
end

