-- ==== Sys2Proof/Machine/Flags.lean ====
section
/-! DEFINITION. The status flags (10_state.md R30) and the events of a commit (41_synchronizer.md R117 to R120).
`recovered` is the `avail` of what CORRECT returns (Machine/Corrector.lean). -/

namespace Sys2Proof.Machine

/-- DETECT (40_corrector.md R94): the type whose syndrome is `s`, if there is one. -/
def detect (p : Params) (s : Word10) : Option BlockType :=
  if s = synTab p .a then some .a
  else if s = synTab p .b then some .b
  else if s = synTab p .c then some .c
  else if s = synTab p .cp then some .cp
  else if s = synTab p .d then some .d
  else none

/-- The flag KNOWN (R30, R110). -/
def known (p : Params) (s : Word10) : Bool := (detect p s).isSome

/-- The type-guess successor (R115). -/
def succType : BlockType → BlockType
  | .a => .b
  | .b => .c
  | .c => .cp
  | .cp => .d
  | .d => .a

/-- The type of a committed block (R114): the detected one, else the guess after LAST. -/
def commitType (p : Params) (last : BlockType) (s : Word10) : BlockType :=
  (detect p s).getD (succType last)

/-- What the continuity update gives: the new CG and the three events (R117). -/
structure Continuity where
  cg  : BitVec 2
  evA : Bool
  evB : Bool
  evG : Bool
deriving DecidableEq, Repr

/-- The count `n` of R117 and `evB`, before the group test. -/
def contCount (p : Params) (last : BlockType) (cg : BitVec 2) (t : BlockType) : Nat × Bool :=
  if t = .b then (1, false)
  else if (t = .c ∨ t = .cp) ∧ last = .b then (cg.toNat + 1, false)
  else if t = .d ∧ (last = .c ∨ last = .cp) ∧ (p.dRequiresFull = false ∨ cg = 2#2) then (cg.toNat + 1, false)
  else if t = .a ∧ p.aBreaksContinuity = false then (cg.toNat, false)
  else (0, cg == 1#2)

/-- `Cont(L, cg, t)` (R117): a count of 3 or more is a complete group and is stored as 0. -/
def cont (p : Params) (last : BlockType) (cg : BitVec 2) (t : BlockType) : Continuity :=
  let n := contCount p last cg t
  { cg := if 3 ≤ n.1 then 0#2 else BitVec.ofNat 2 n.1
    evA := t == .a
    evB := n.2
    evG := decide (3 ≤ n.1) }

end Sys2Proof.Machine
end

