-- ==== Sys2Proof/Machine/Ops.lean ====
section
/-! DEFINITION. The operations on the state that the meanings share: slot reads and writes (00_scope.md R13;
20_memory.md R49 to R51), the strobes, the checks that refuse, and fetching the next port sample. There is no
exception to take and none to return from (60_exceptions.md R141, R147, R148). -/

namespace Sys2Proof.Machine

/-- The entry of a type. -/
def SlotFile.get (f : SlotFile) : BlockType → Slot
  | .a => f.a
  | .b => f.b
  | .c => f.c
  | .cp => f.cp
  | .d => f.d

/-- The slot file with the entry of a type replaced. -/
def SlotFile.set (f : SlotFile) (t : BlockType) (x : Slot) : SlotFile :=
  match t with
  | .a => { f with a := x }
  | .b => { f with b := x }
  | .c => { f with c := x }
  | .cp => { f with cp := x }
  | .d => { f with d := x }

/-- `SlotRead(t)` (R13). -/
def State.slotRead (s : State) (t : BlockType) : Slot := s.slots.get t

/-- `SlotWrite(t, w, a)` (R13): both fields of one entry. -/
def State.slotWrite (s : State) (t : BlockType) (x : Slot) : State := { s with slots := s.slots.set t x }

/-- The level on the RD_SEL wires of a read port. -/
def State.rdLevel (s : State) (port : Nat) : Code := s.rdSel.getD port 0#3

/-- The list of levels with that of one port replaced; the ports up to it are low where the list does not reach. -/
def setLevel (sel : Code) : Nat → List Code → List Code
  | 0, [] => [sel]
  | 0, _ :: l => sel :: l
  | n + 1, [] => 0#3 :: setLevel sel n []
  | n + 1, x :: l => x :: setLevel sel n l

/-- What a read port returns for a select (42_control.md R133): selects 5, 6 and 7 read as (0, 0) (R51). -/
def State.readSel (s : State) (sel : Code) : Slot :=
  match BlockType.ofCode sel with
  | some t => s.slotRead t
  | none => { word := 0#26, avail := false }

/-- The state with its four strobes at 0 (41_synchronizer.md R123). -/
def State.clearStrobes (s : State) : State :=
  { s with oValid := false, oEva := false, oEvb := false, oEvg := false }

/-- Every register holds a value that 93 U3 and U5 do not call unreachable. -/
def State.legal (s : State) : Bool :=
  decide (s.sync.toNat ≤ 4) && decide (s.skip.toNat ≤ 26) && decide (s.last.toNat ≤ 4)
    && decide (s.cg.toNat ≤ 2) && decide (s.oType.toNat ≤ 4)

/-- The answer of an operation that a configuration with equal type syndromes refuses (40_corrector.md R93). -/
def onConfig (p : Params) (k : Answer) : Answer :=
  if syndromesDistinct p then k else .refused .indistinctSyndromes

/-- The answer of an operation that unreachable states refuse (93 U3, U5; notes/assumptions/5.md): in any other
state it goes on with the type in LAST. -/
def onLegal (s : State) (k : BlockType → Answer) : Answer :=
  if s.legal then
    match BlockType.ofCode s.last with
    | some last => k last
    | none => .refused .unreachableState
  else .refused .unreachableState

/-- The next operation and the state with its frame taken, or why there is none. -/
def fetch (s : State) : Except Refusal (Instr × State) :=
  match s.inputs with
  | [] => .error .noSample
  | f :: rest =>
    match decode (f :: rest) with
    | .ok (i, rest') => .ok (i, { s with inputs := rest' })
    | .error e => .error (.notASample e)

end Sys2Proof.Machine
end

