-- ==== Sys2Proof/Machine/Control.lean ====
section
/-! DEFINITION. RESET, IDLE and READ (42_control.md). -/

namespace Sys2Proof.Machine

/-- RESET (R132): every register of the block at its value of R35. The two fields that stand for the outside,
the select wires and the samples to come, are no registers and keep what they hold. -/
def resetRegisters (s : State) : State := { State.reset with rdSel := s.rdSel, inputs := s.inputs }

/-- RESET under any configuration: from every state, reachable or not (R132, R162). -/
def resetAt (p : Params) (s : State) : Answer := onConfig p (.next (resetRegisters s))

/-- RESET (R132). -/
def execReset (s : State) : Answer := resetAt Config.params s

/-- IDLE under any configuration: only the strobes change (R131). -/
def idleAt (p : Params) (s : State) : Answer := onConfig p (onLegal s fun _ => .next s.clearStrobes)

/-- IDLE (R131). -/
def execIdle (s : State) : Answer := idleAt Config.params s

/-- A reader puts `sel` on the select wires of port `port`; the port then shows the slot (R133). -/
def driveSel (port : Nat) (sel : Code) (s : State) : State :=
  { s with rdSel := setLevel sel port s.rdSel }

/-- READ under any configuration, on each of its N_RD_PORTS ports (20_memory.md R50). No register of the block
changes (R133, R55). -/
def readAt (p : Params) (port : Nat) (sel : Code) (s : State) : Answer :=
  onConfig p (onLegal s fun _ =>
    if port < p.nRdPorts then .next (driveSel port sel s) else .refused .absentReadPort)

/-- READ (R133). -/
def execRead (port : Nat) (sel : Code) (s : State) : Answer := readAt Config.params port sel s

end Sys2Proof.Machine
end

