-- ==== Sys2Proof/Machine/Synchronizer.lean ====
section
/-! DEFINITION. The SYM operation (41_synchronizer.md R106). -/

namespace Sys2Proof.Machine

/-- Steps 5 to 8 of R106: a block test that leaves SYNC at `nsync > 0` commits the window `sr`, whose raw
syndrome is `syn` (R114 to R122). `last` is the type in LAST. -/
def commit (p : Params) (last : BlockType) (sr : BlockWord) (syn : Word10) (nsync : Nat) (s : State) : State :=
  let t := commitType p last syn
  let x := correct p sr t
  let g := cont p last s.cg t
  { s.slotWrite t x with
    sr := sr, sync := BitVec.ofNat 3 nsync, skip := BitVec.ofNat 5 Config.blockLen, last := t.code, cg := g.cg
    oValid := true, oType := t.code, oWord := x.word, oAvail := x.avail, oKnown := known p syn, oSyn := syn
    oEva := g.evA, oEvb := g.evB, oEvg := g.evG }

/-- Steps 3 and 4 of R106: the block test of the window `sr` (R109 to R111), which ends in hunt mode (R113) or
in a commit. DEDUCED: a window that still holds reset zeros is tested like any other and commits when its syndrome is
known, even before the 26th SYM of a valid first block, where 70_reset_and_hazards.md R164 contradicts itself
(notes/assumptions/16.md). -/
def blockTest (p : Params) (last : BlockType) (sr : BlockWord) (s : State) : State :=
  let syn := syndrome sr
  let nsync := syncAfter s.sync (known p syn)
  if nsync = 0 then { s.clearStrobes with sr := sr, sync := 0#3, skip := 0#5 }
  else commit p last sr syn nsync s

/-- SYM b (R106, the total function of R130): shift (R107), count (R112), and test at a count of 0 (R109);
between tests only SR, SKIP and the strobes change (R108). -/
def stepSym (p : Params) (last : BlockType) (b : Bool) (s : State) : State :=
  let sr := shiftIn s.sr b
  let k := skipAfter s.skip
  if 0 < k then { s.clearStrobes with sr := sr, skip := BitVec.ofNat 5 k }
  else blockTest p last sr s

/-- SYM b under any configuration. -/
def symAt (p : Params) (b : Bool) (s : State) : Answer :=
  onConfig p (onLegal s fun last => .next (stepSym p last b s))

/-- SYM b (R106). -/
def execSym (b : Bool) (s : State) : Answer := symAt Config.params b s

end Sys2Proof.Machine
end

