-- ==== Sys2Proof/Machine/Step.lean ====
section
/-! DEFINITION. One step: take the next port sample and do its operation. A command is one clock edge
(10_state.md R29); a READ stands between two edges (30_encoding.md R77; notes/assumptions/2.md). -/

namespace Sys2Proof.Machine

/-- The next operation of the input stream, done. -/
def step (s : State) : Host.Outcome State Fault Refusal :=
  match fetch s with
  | .ok (i, s') => exec i s'
  | .error r => .refused r

/-- The state in which a table word is the next sample (notes/assumptions/4.md): its first byte, the longest
an operation can be, goes in front of the samples to come. -/
def State.withFetchWord (s : State) (nbits w : Nat) : State :=
  { s with inputs := (tableBytes nbits w).take 1 ++ s.inputs }

end Sys2Proof.Machine
end

