-- ==== Sys2Proof/Machine/Assembler.lean ====
section
/-! DEFINITION. The spec's notation for programs (30_encoding.md R77, R78) and the construction of a valid block
it uses (R75). The block has no encoder: no meaning calls these. -/

namespace Sys2Proof.Machine

/-- The remainder register after bits n-1 down to 0 of `w`: shift the next bit in, reduce by `g(x)` (R14). -/
def polyModFrom (w : BlockWord) : Nat → Word10 → Word10
  | 0, r => r
  | n + 1, r => polyModFrom w n (lfsrShift r ^^^ (BitVec.ofBool (w.getLsbD n)).setWidth 10)

/-- `w(x) mod g(x)` (R14). -/
def polyMod (w : BlockWord) : Word10 := polyModFrom w Config.blockLen 0#10

/-- `chk = (P(x)·x^10) mod g(x)` (R75). -/
def checkWord (P : Payload) : Word10 := polyMod (mkBlock P 0#10)

/-- The valid block of type `t` with payload `P` (R75). -/
def validBlock (p : Params) (t : BlockType) (P : Payload) : BlockWord :=
  mkBlock P (checkWord P ^^^ offsetOf p t)

/-- A line of a program (R77) or a pseudo-instruction (R78). `IDLE` is `idle 1`. -/
inductive AsmLine where
  | rst
  | idle (n : Nat)
  | sym (b : Bool)
  | rd (sel : Code)
  | blk (h : BlockWord)
  | enc (t : BlockType) (P : Payload)
  | encx (t : BlockType) (P : Payload) (e : BlockWord)
  | syms (s : List Bool)
deriving DecidableEq, Repr

/-- The low `n` bits of a word, the most significant of them first (20_memory.md R46). -/
def bitsFrom (w : BlockWord) : Nat → List Bool
  | 0 => []
  | n + 1 => w.getLsbD n :: bitsFrom w n

/-- The symbols of a block in the order they are received (R46). -/
def blockBits (w : BlockWord) : List Bool := bitsFrom w Config.blockLen

/-- The operations a line stands for (R77, R78); `RD` uses read port 0. -/
def AsmLine.expand (p : Params) : AsmLine → List Instr
  | .rst => [.reset]
  | .idle n => List.replicate n .idle
  | .sym b => [.sym b]
  | .rd sel => [.read 0 sel]
  | .blk h => (blockBits h).map .sym
  | .enc t P => (blockBits (validBlock p t P)).map .sym
  | .encx t P e => (blockBits (validBlock p t P ^^^ e)).map .sym
  | .syms s => s.map .sym

/-- The input stream of a program. -/
def assemble (p : Params) (prog : List AsmLine) : List Byte :=
  (prog.flatMap (AsmLine.expand p)).flatMap encode

end Sys2Proof.Machine
end

