-- ==== Sys2Proof/Machine/Configured.lean ====
section
/-! DEFINITION. The machine under any configuration: 92_eei_decisions.md calls each parameter of 00_scope.md R8 one
that the model takes as an argument. `exec` and `step` are these under `Config.params` (Laws/Step.lean proves it). -/

namespace Sys2Proof.Machine

/-- An operation on a block built with `p`. -/
def execAt (p : Params) (i : Instr) (s : State) : Answer :=
  match i with
  | .reset => resetAt p s
  | .idle => idleAt p s
  | .sym b => symAt p b s
  | .read port sel => readAt p port sel s

/-- One step of a block built with `p`: the operation of the next port sample. -/
def stepAt (p : Params) (s : State) : Answer :=
  match fetch s with
  | .ok (i, s') => execAt p i s'
  | .error r => .refused r

end Sys2Proof.Machine
end

