-- ==== Sys2Proof/Machine/Status.lean ====
section
/-! DEFINITION. The output ports (30_encoding.md R69): the status wires (10_state.md R31, 42_control.md R134),
the commit outputs and strobes (R27, R28), and the read ports (20_memory.md R50). All are views of the state.
SR has no output (R154). -/

namespace Sys2Proof.Machine

/-- ST_SYNC. -/
def State.stSync (s : State) : BitVec 3 := s.sync

/-- ST_LOCKED: `SYNC != 0`. -/
def State.stLocked (s : State) : Bool := s.sync != 0#3

/-- ST_SKIP. -/
def State.stSkip (s : State) : BitVec 5 := s.skip

/-- ST_LAST. -/
def State.stLast (s : State) : Code := s.last

/-- ST_CG. -/
def State.stCg (s : State) : BitVec 2 := s.cg

/-- RD_WORD and RD_AVAIL of a read port, combinational from its select wires and the slots (R50, R133); none for
a port that a block built with `p` does not have. -/
def State.readPort (s : State) (p : Params) (port : Nat) : Option Slot :=
  if port < p.nRdPorts then some (s.readSel (s.rdLevel port)) else none

/-- All output ports of R69. -/
structure Outputs where
  rd       : List Slot
  oValid   : Bool
  oType    : Code
  oWord    : BlockWord
  oAvail   : Bool
  oKnown   : Bool
  oSyn     : Word10
  oEva     : Bool
  oEvb     : Bool
  oEvg     : Bool
  stSync   : BitVec 3
  stLocked : Bool
  stSkip   : BitVec 5
  stLast   : Code
  stCg     : BitVec 2
deriving DecidableEq, Repr

/-- What a block built with `p` shows between two edges; RD_WORD and RD_AVAIL of port 0 come first. -/
def State.outputs (s : State) (p : Params) : Outputs :=
  { rd := (List.range p.nRdPorts).map fun port => s.readSel (s.rdLevel port)
    oValid := s.oValid, oType := s.oType, oWord := s.oWord, oAvail := s.oAvail, oKnown := s.oKnown
    oSyn := s.oSyn, oEva := s.oEva, oEvb := s.oEvb, oEvg := s.oEvg
    stSync := s.stSync, stLocked := s.stLocked, stSkip := s.stSkip, stLast := s.stLast, stCg := s.stCg }

end Sys2Proof.Machine
end

