-- ==== Sys2Proof/Safety.lean ====
section
/-! DEFINITION. The terms the claims use: the invariants of the reachable states, runs of operations, and the
error patterns of 40_corrector.md. -/

namespace Sys2Proof

/-- The operation is a SYM. -/
def Instr.isSym : Instr → Bool
  | .sym _ => true
  | .reset => false
  | .idle => false
  | .read _ _ => false

/-- The operation is a SYM or a RESET: the operations that write registers other than the strobes. -/
def Instr.writes : Instr → Bool
  | .sym _ => true
  | .reset => true
  | .idle => false
  | .read _ _ => false

end Sys2Proof

namespace Sys2Proof.Machine

/-! ### Invariants -/

/-- 10_state.md R34 (a) to (e), and O_TYPE's range (30_encoding.md R70). -/
def State.Inv (s : State) : Prop :=
  s.sync.toNat ≤ 4 ∧ (s.sync = 0#3 ↔ s.skip = 0#5) ∧ (s.sync ≠ 0#3 → 1 ≤ s.skip.toNat ∧ s.skip.toNat ≤ 26)
    ∧ s.cg.toNat ≤ 2 ∧ s.last.toNat ≤ 4 ∧ s.oType.toNat ≤ 4

/-- What CG can be after a commit of each type, under the default parameters (41_synchronizer.md R117). -/
def State.ContInv (s : State) : Prop :=
  (s.last = BlockType.code .a → s.cg = 0#2) ∧ (s.last = BlockType.code .b → s.cg = 1#2)
    ∧ (s.last = BlockType.code .c ∨ s.last = BlockType.code .cp → s.cg = 0#2 ∨ s.cg = 2#2)
    ∧ (s.last = BlockType.code .d → s.cg = 0#2 ∨ s.cg = 1#2)

/-- The commit outputs describe the last commit (R122, 60_exceptions.md R147): the type in LAST, the slot that
commit wrote, a recovered block whenever the type was detected (40_corrector.md R98), and strobes that agree with
each other (R118, R120, R146). -/
def State.OutInv (p : Params) (s : State) : Prop :=
  s.oType = s.last
    ∧ s.readSel s.last = { word := s.oWord, avail := s.oAvail }
    ∧ (s.oKnown = true → s.oAvail = true ∧ ∃ t : BlockType, t.code = s.last ∧ s.oSyn = synTab p t)
    ∧ (s.oValid = false → s.oEva = false ∧ s.oEvb = false ∧ s.oEvg = false)
    ∧ (s.oValid = true → (s.oEva = true ↔ s.last = BlockType.code .a))
    ∧ (s.oEvg = true → s.last = BlockType.code .d ∧ s.cg = 0#2 ∧ s.oEva = false ∧ s.oEvb = false)

/-! ### Runs -/

/-- The operations of a list, one after the other. -/
def runInstrs : List Instr → State → Answer
  | [], s => .next s
  | i :: is, s =>
    match exec i s with
    | .next t => runInstrs is t
    | .fault r => .fault r
    | .refused r => .refused r

/-- How many SYMs a list holds. -/
def countSyms (l : List Instr) : Nat := (l.filter Instr.isSym).length

/-- The type codes of the commits of a run, in order: the SYMs that raise O_VALID. -/
def commitsOf : List Instr → State → List Code
  | [], _ => []
  | i :: is, s =>
    match exec i s with
    | .next t => if i.isSym && t.oValid then t.oType :: commitsOf is t else commitsOf is t
    | .fault _ => []
    | .refused _ => []

/-- The SYMs that send a block, most significant bit first (20_memory.md R46; `BLK` of R78). -/
def symsOf (w : BlockWord) : List Instr := (blockBits w).map Instr.sym

/-- The registers of the block other than the strobes: what IDLE and READ leave alone. -/
def State.sameData (s t : State) : Prop :=
  s.sr = t.sr ∧ s.sync = t.sync ∧ s.skip = t.skip ∧ s.last = t.last ∧ s.cg = t.cg ∧ s.slots = t.slots
    ∧ s.oType = t.oType ∧ s.oWord = t.oWord ∧ s.oAvail = t.oAvail ∧ s.oKnown = t.oKnown ∧ s.oSyn = t.oSyn

/-! ### Error patterns -/

/-- A burst of length 1 to 5 whose bits lie within bits 25..5 (40_corrector.md R100). -/
def IsCorrectableBurst (e : BlockWord) : Prop :=
  ∃ pattern pos : Nat, 1 ≤ pattern ∧ pattern < 32 ∧ 5 ≤ pos ∧ pattern <<< pos < 2 ^ 26
    ∧ e = BitVec.ofNat 26 (pattern <<< pos)

/-- A nonzero pattern with all its 1s in bits 4..0 (R101). -/
def IsLowCheckError (e : BlockWord) : Prop := e ≠ 0#26 ∧ e.toNat < 32

end Sys2Proof.Machine
end

