-- ==== Sys2Proof/Certificates/Slice0/Obligations.lean ====
section
/-! DEFINITION. The statements for the provers. `exec` and `step` run under `Config.params`, the defaults of
00_scope.md R8 (notes/assumptions/6.md, 7.md, 8.md). The statements about functions of the corrector and of the
continuity update, and those about `execAt` and `stepAt`, hold for every `Params`, as 92_eei_decisions.md D7, D11,
D12 and D14 ask. -/

open Sys2Proof Sys2Proof.Machine

/-! ### RESET, IDLE, READ -/

/-- 10_state.md R35: every register's value after RESET, from whatever state, and in `State.reset`. -/
def Obligations.ResetGivesEveryRegisterItsValue : Prop :=
  ∀ s : State, ∃ t, exec .reset s = .next t ∧
    ∀ u, (u = t ∨ u = State.reset) →
      u.sr = 0#26 ∧ u.sync = 0#3 ∧ u.skip = 0#5 ∧ u.last = BlockType.code .a ∧ u.cg = 0#2 ∧
      (∀ ty, (u.slotRead ty).word = 0#26 ∧ (u.slotRead ty).avail = false) ∧
      u.oValid = false ∧ u.oEva = false ∧ u.oEvb = false ∧ u.oEvg = false ∧ u.oType = 0#3 ∧ u.oWord = 0#26 ∧
      u.oAvail = false ∧ u.oKnown = false ∧ u.oSyn = 0#10

/-- 42_control.md R132: RESET completes in every state with the same registers, two RESETs equal one, every
command with RST = 1 is RESET whatever symbol it offers, and the first SYM afterwards makes a block test. That the
select wires and the pending samples stay is the model's own (notes/assumptions/2.md). -/
def Obligations.ResetFromAnyState : Prop :=
  (∀ s : State, exec .reset s = .next { State.reset with rdSel := s.rdSel, inputs := s.inputs }) ∧
  (∀ s : State, runInstrs [.reset, .reset] s = exec .reset s) ∧
  (∀ c : Cmd, c.getLsbD 2 = true → decodeFrame (commandFrame c) = .ok .reset) ∧
  (∀ (s : State) (b : Bool), ∃ t, runInstrs [.reset, .sym b] s = .next t ∧
    (t.oValid = true ↔ known Config.params (syndrome t.sr) = true) ∧
    (known Config.params (syndrome t.sr) = false → t.sync = 0#3 ∧ t.skip = 0#5))

/-- 42_control.md R131: IDLE, once or many times, only clears the strobes; SKIP counts SYMs and not cycles. -/
def Obligations.IdleOnlyClearsStrobes : Prop :=
  (∀ (s : State) (n : Nat), s.legal = true →
    runInstrs (List.replicate (n + 1) .idle) s =
      .next { s with oValid := false, oEva := false, oEvb := false, oEvg := false }) ∧
  (∀ c : Cmd, c.getLsbD 2 = false → c.getLsbD 1 = false → decodeFrame (commandFrame c) = .ok .idle) ∧
  (∀ (s : State) (n : Nat) (b : Bool), s.legal = true → s.skip = 5#5 →
    ∃ t, runInstrs (List.replicate n .idle ++ [.sym b]) s = .next t ∧ t.skip = 4#5)

/-- 42_control.md R133 and 20_memory.md R50: READ completes, changes no register, and its port shows the slot of
the select, word and flag of one state. That READ is a step which drives the select wires is the model's own
(notes/assumptions/2.md). -/
def Obligations.ReadShowsTheSelectedSlot : Prop :=
  ∀ (s : State) (port : Nat) (sel : Code), s.legal = true → port < Config.params.nRdPorts →
    ∃ t, exec (.read port sel) s = .next t ∧ t = { s with rdSel := t.rdSel } ∧
      (∀ other, other ≠ port → t.rdLevel other = s.rdLevel other) ∧
      (∀ ty : BlockType, sel = ty.code → t.readPort Config.params port = some (s.slotRead ty))

/-- 20_memory.md R51: selects 5, 6 and 7 read as (0, 0). That READ is a step which completes and drives the select
wires is the model's own (notes/assumptions/2.md). -/
def Obligations.ReservedSelectsReadZero : Prop :=
  ∀ (s : State) (port : Nat) (sel : Code), s.legal = true → port < Config.params.nRdPorts → 5 ≤ sel.toNat →
    ∃ t, exec (.read port sel) s = .next t ∧ t.readPort Config.params port = some { word := 0#26, avail := false }

/-- 20_memory.md R50, 70_reset_and_hazards.md R171: a read in the cycle of a command's edge shows the slot before
the edge, and from the next cycle on the port, still selected, shows the slot after it. -/
def Obligations.ReadBeforeTheEdgeShowsTheOldSlot : Prop :=
  ∀ (s t u : State) (port : Nat) (ty : BlockType) (i : Instr),
    exec (.read port ty.code) s = .next t → (∀ q sel, i ≠ .read q sel) → exec i t = .next u →
      t.readPort Config.params port = some (s.slotRead ty) ∧ u.readPort Config.params port = some (u.slotRead ty) ∧
      ∃ v, exec i s = .next v ∧ u = { v with rdSel := t.rdSel }

/-- 20_memory.md R50: a block has the ports below N_RD_PORTS and no other. A READ on another is refused by name, for
every value of the parameter, and under `exec`'s default 1 (00_scope.md R8; notes/assumptions/8.md). -/
def Obligations.AbsentReadPortRefused : Prop :=
  (∀ (p : Params) (s : State) (port : Nat) (sel : Code), syndromesDistinct p = true → s.legal = true →
    p.nRdPorts ≤ port →
    execAt p (.read port sel) s = .refused .absentReadPort ∧ s.readPort p port = none) ∧
  (∀ (s : State) (port : Nat) (sel : Code), s.legal = true → 1 ≤ port →
    exec (.read port sel) s = .refused .absentReadPort)

/-- 20_memory.md R50, R51 and R55 for every value of N_RD_PORTS: a READ on any port of the block completes and
changes no register; its port shows the selected slot, and after the next command's edge the slot as that command
left it; every other port shows what it showed. That READ is a step which drives the select wires is the model's own
(notes/assumptions/2.md). -/
def Obligations.ReadOnEveryPortOfEveryBuild : Prop :=
  ∀ (p : Params) (s : State) (port : Nat) (sel : Code), syndromesDistinct p = true → s.legal = true →
    port < p.nRdPorts →
    ∃ t, execAt p (.read port sel) s = .next t ∧ t = { s with rdSel := t.rdSel } ∧
      (∀ ty : BlockType, sel = ty.code → t.readPort p port = some (s.slotRead ty)) ∧
      (5 ≤ sel.toNat → t.readPort p port = some { word := 0#26, avail := false }) ∧
      (∀ other, other ≠ port → t.readPort p other = s.readPort p other) ∧
      (∀ (i : Instr) (u : State), (∀ q x, i ≠ .read q x) → execAt p i t = .next u →
        ∀ ty : BlockType, sel = ty.code → u.readPort p port = some (u.slotRead ty))

/-- 10_state.md R31: the status wires. -/
def Obligations.StatusWiresShowTheRegisters : Prop :=
  ∀ (p : Params) (s : State), (s.outputs p).stSync = s.sync ∧ ((s.outputs p).stLocked = true ↔ s.sync ≠ 0#3) ∧
    (s.outputs p).stSkip = s.skip ∧ (s.outputs p).stLast = s.last ∧ (s.outputs p).stCg = s.cg

/-! ### SYM -/

/-- 41_synchronizer.md R107: every SYM shifts its symbol in, whatever SYNC and SKIP hold. -/
def Obligations.SymShiftsTheWindow : Prop :=
  ∀ (s : State) (b : Bool), s.legal = true →
    ∃ t, exec (.sym b) s = .next t ∧ t.sr = (s.sr <<< 1) ||| (if b then 1#26 else 0#26)

/-- 41_synchronizer.md R108: between block tests a SYM changes SR, SKIP and the strobes, and nothing else. -/
def Obligations.SymBetweenTests : Prop :=
  ∀ (s : State) (b : Bool), s.legal = true → 2 ≤ s.skip.toNat →
    exec (.sym b) s =
      .next { s with
        sr := (s.sr <<< 1) ||| (if b then 1#26 else 0#26), skip := s.skip - 1#5
        oValid := false, oEva := false, oEvb := false, oEvg := false }

/-- 41_synchronizer.md R113: a block test that leaves SYNC at 0 ends in hunt mode and commits nothing. -/
def Obligations.SymHunts : Prop :=
  ∀ (s : State) (b : Bool), s.legal = true → s.skip.toNat ≤ 1 → s.sync.toNat ≤ 1 →
    known Config.params (syndrome (shiftIn s.sr b)) = false →
    exec (.sym b) s =
      .next { s with
        sr := shiftIn s.sr b, sync := 0#3, skip := 0#5
        oValid := false, oEva := false, oEvb := false, oEvg := false }

/-- 41_synchronizer.md R106, steps 5 to 8: the whole next state of a SYM that commits, for a detected type and for
a guessed one (R114). Slots of other types, the select wires and the samples to come stay. -/
def Obligations.SymCommits : Prop :=
  ∀ (s : State) (b : Bool) (last ty : BlockType), s.legal = true → s.last = last.code → s.skip.toNat ≤ 1 →
    (detect Config.params (syndrome (shiftIn s.sr b)) = some ty ∨
      known Config.params (syndrome (shiftIn s.sr b)) = false ∧ 2 ≤ s.sync.toNat ∧ ty = succType last) →
    exec (.sym b) s =
      .next { s with
        sr := shiftIn s.sr b
        sync :=
          if known Config.params (syndrome (shiftIn s.sr b)) then (if s.sync = 4#3 then 4#3 else s.sync + 1#3)
          else s.sync - 1#3
        skip := 26#5, last := ty.code
        cg := (cont Config.params last s.cg ty).cg
        slots := s.slots.set ty (correct Config.params (shiftIn s.sr b) ty)
        oValid := true, oType := ty.code
        oWord := (correct Config.params (shiftIn s.sr b) ty).word
        oAvail := (correct Config.params (shiftIn s.sr b) ty).avail
        oKnown := known Config.params (syndrome (shiftIn s.sr b))
        oSyn := syndrome (shiftIn s.sr b)
        oEva := (cont Config.params last s.cg ty).evA
        oEvb := (cont Config.params last s.cg ty).evB
        oEvg := (cont Config.params last s.cg ty).evG }

/-- 41_synchronizer.md R111: the confidence counter at a block test, and that no other operation but RESET
changes it. -/
def Obligations.SyncCountsBlockTests : Prop :=
  (∀ (s : State) (b : Bool), s.legal = true →
    ∃ t, exec (.sym b) s = .next t ∧ t.sync.toNat ≤ 4 ∧
      (s.skip.toNat ≤ 1 → known Config.params (syndrome t.sr) = true → t.sync.toNat = min (s.sync.toNat + 1) 4) ∧
      (s.skip.toNat ≤ 1 → known Config.params (syndrome t.sr) = false → t.sync.toNat = max (s.sync.toNat - 1) 0) ∧
      (2 ≤ s.skip.toNat → t.sync = s.sync)) ∧
  (∀ (i : Instr) (s t : State), i.writes = false → exec i s = .next t → t.sync = s.sync)

/-- 41_synchronizer.md R124: a block is typed and committed if and only if SYNC' > 0 after the block test. -/
def Obligations.TypingIffSyncPositive : Prop :=
  ∀ (s : State) (b : Bool), s.legal = true →
    ∃ t, exec (.sym b) s = .next t ∧ (t.oValid = true ↔ s.skip.toNat ≤ 1 ∧ 0 < t.sync.toNat)

/-- 41_synchronizer.md R123: the four strobes are 0 after every RESET, every IDLE, and every SYM that commits nothing:
one between block tests, and one whose block test leaves SYNC' = 0 (an unknown syndrome at SYNC 0 or 1, R111). IDLE
and such a SYM keep the other commit outputs. Every other SYM commits, and its step alone has O_VALID = 1. -/
def Obligations.StrobesLastOneStep : Prop :=
  (∀ s : State, ∃ t, exec .reset s = .next t ∧
    t.oValid = false ∧ t.oEva = false ∧ t.oEvb = false ∧ t.oEvg = false) ∧
  (∀ s : State, s.legal = true → ∃ t, exec .idle s = .next t ∧
    t.oValid = false ∧ t.oEva = false ∧ t.oEvb = false ∧ t.oEvg = false ∧
    t.oType = s.oType ∧ t.oWord = s.oWord ∧ t.oAvail = s.oAvail ∧ t.oKnown = s.oKnown ∧ t.oSyn = s.oSyn) ∧
  (∀ (s : State) (b : Bool), s.legal = true →
    (2 ≤ s.skip.toNat ∨
      s.skip.toNat ≤ 1 ∧ s.sync.toNat ≤ 1 ∧ known Config.params (syndrome (shiftIn s.sr b)) = false) →
    ∃ t, exec (.sym b) s = .next t ∧
      t.oValid = false ∧ t.oEva = false ∧ t.oEvb = false ∧ t.oEvg = false ∧
      t.oType = s.oType ∧ t.oWord = s.oWord ∧ t.oAvail = s.oAvail ∧ t.oKnown = s.oKnown ∧ t.oSyn = s.oSyn) ∧
  (∀ (s : State) (b : Bool), s.legal = true → s.skip.toNat ≤ 1 →
    (2 ≤ s.sync.toNat ∨ known Config.params (syndrome (shiftIn s.sr b)) = true) →
    ∃ t, exec (.sym b) s = .next t ∧ t.oValid = true)

/-- 41_synchronizer.md R116: a commit stores what CORRECT returns in the slot of its type, available or not, and
leaves the other slots. -/
def Obligations.CommitStoresTheCorrectedBlock : Prop :=
  ∀ (s t : State) (b : Bool), exec (.sym b) s = .next t → t.oValid = true →
    ∃ ty : BlockType, t.oType = ty.code ∧ t.slotRead ty = correct Config.params t.sr ty ∧
      ∀ other, other ≠ ty → t.slotRead other = s.slotRead other

/-- 41_synchronizer.md R115: the type-guess successor, as the table and as the formula. -/
def Obligations.GuessedTypeIsTheNextCode : Prop :=
  succType .a = .b ∧ succType .b = .c ∧ succType .c = .cp ∧ succType .cp = .d ∧ succType .d = .a ∧
    ∀ ty, (succType ty).code.toNat = (ty.code.toNat + 1) % 5

/-! ### DETECT and continuity -/

/-- 41_synchronizer.md R110, 40_corrector.md R94: KNOWN and the matched type, for every configuration R93 admits. -/
def Obligations.DetectFindsExactlyTheTableEntries : Prop :=
  ∀ (p : Params) (s : Word10), syndromesDistinct p = true →
    (∀ ty, detect p s = some ty ↔ s = synTab p ty) ∧
    (known p s = true ↔ s = synTab p .a ∨ s = synTab p .b ∨ s = synTab p .c ∨ s = synTab p .cp ∨ s = synTab p .d)

/-- 41_synchronizer.md R117, arm by arm, for every value of A_BREAKS_CONTINUITY and D_REQUIRES_FULL; a stored CG
is at most 2 (10_state.md R25). -/
def Obligations.ContinuityRule : Prop :=
  ∀ (p : Params) (l t : BlockType) (cg : BitVec 2), cg.toNat ≤ 2 →
    (t = .b → cont p l cg t = { cg := 1#2, evA := false, evB := false, evG := false }) ∧
    (l = .b → (t = .c ∨ t = .cp) →
      cont p l cg t = { cg := if cg = 2#2 then 0#2 else cg + 1#2, evA := false, evB := false, evG := cg == 2#2 }) ∧
    ((l = .c ∨ l = .cp) → t = .d → (p.dRequiresFull = false ∨ cg = 2#2) →
      cont p l cg t = { cg := if cg = 2#2 then 0#2 else cg + 1#2, evA := false, evB := false, evG := cg == 2#2 }) ∧
    (t = .a → p.aBreaksContinuity = false →
      cont p l cg t = { cg := cg, evA := true, evB := false, evG := false }) ∧
    (t ≠ .b → ¬(l = .b ∧ (t = .c ∨ t = .cp)) →
      ¬((l = .c ∨ l = .cp) ∧ t = .d ∧ (p.dRequiresFull = false ∨ cg = 2#2)) →
      ¬(t = .a ∧ p.aBreaksContinuity = false) →
      cont p l cg t = { cg := 0#2, evA := t == .a, evB := cg == 1#2, evG := false })

/-- 41_synchronizer.md R118: event A at every commit of type A and at no other, whatever the block's flag. -/
def Obligations.EventAAtEveryBlockA : Prop :=
  ∀ (s t : State) (b : Bool), exec (.sym b) s = .next t → t.oValid = true →
    (t.oEva = true ↔ t.oType = BlockType.code .a)

/-- 60_exceptions.md R146: the sets of events one commit can raise, and that the group event comes alone. -/
def Obligations.SimultaneousEvents : Prop :=
  (∀ (p : Params) (l ty : BlockType) (cg : BitVec 2), cg.toNat ≤ 2 → (cont p l cg ty).evG = true →
    (cont p l cg ty).evA = false ∧ (cont p l cg ty).evB = false) ∧
  (∀ a b g : Bool, (∃ (l ty : BlockType) (cg : BitVec 2), cg.toNat ≤ 2 ∧
      (cont Config.params l cg ty).evA = a ∧ (cont Config.params l cg ty).evB = b ∧
      (cont Config.params l cg ty).evG = g) ↔ (g = false ∨ a = false ∧ b = false))

/-- 41_synchronizer.md R120: a group event at the end of a run that made three commits or more comes from a B,
then a C or C′, then a D on its last three commits, from every state that meets the invariants. -/
def Obligations.GroupEventNeedsConsecutiveBCD : Prop :=
  ∀ (l : List Instr) (s t : State), s.Inv → s.ContInv → runInstrs l s = .next t → t.oEvg = true →
    3 ≤ (commitsOf l s).length →
    ∃ (before : List Code) (third : BlockType), (third = .c ∨ third = .cp) ∧
      commitsOf l s = before ++ [BlockType.code .b, third.code, BlockType.code .d]

/-- 41_synchronizer.md R120, the other direction: a committed D after a C or C′ with CG = 2 raises the group event
and stores CG as 0, whatever is available. -/
def Obligations.GroupEventWhenTheCountReachesThree : Prop :=
  ∀ (s t : State) (b : Bool), exec (.sym b) s = .next t → t.oValid = true → t.oType = BlockType.code .d →
    (s.last = BlockType.code .c ∨ s.last = BlockType.code .cp) → s.cg = 2#2 → t.oEvg = true ∧ t.cg = 0#2

/-! ### Runs of the synchronizer -/

/-- 41_synchronizer.md R125: from hunt mode the first known syndrome locks, with its type and SYNC = 1; 5 of the
1024 syndromes are known. -/
def Obligations.LockAcquisition : Prop :=
  (∀ (s : State) (b : Bool) (ty : BlockType), s.legal = true → s.sync = 0#3 → s.skip = 0#5 →
    syndrome (shiftIn s.sr b) = synTab Config.params ty →
    ∃ t, exec (.sym b) s = .next t ∧ t.oValid = true ∧ t.oKnown = true ∧ t.oType = ty.code ∧ t.last = ty.code ∧
      t.sync = 1#3 ∧ t.skip = 26#5) ∧
  (List.range 1024).countP (fun n => known Config.params (BitVec.ofNat 10 n)) = 5

/-- 41_synchronizer.md R127: from SYNC = n, right after a commit, n blocks with unknown syndromes lose lock; all but
the last commit, each with the guess after the one before. -/
def Obligations.LossOfLock : Prop :=
  ∀ (s : State) (last : BlockType) (blocks : List BlockWord), s.legal = true → s.last = last.code → s.skip = 26#5 →
    1 ≤ blocks.length → blocks.length = s.sync.toNat →
    (∀ w ∈ blocks, known Config.params (syndrome w) = false) →
    ∃ t, runInstrs (blocks.flatMap symsOf) s = .next t ∧ t.sync = 0#3 ∧ t.skip = 0#5 ∧ t.oValid = false ∧
      commitsOf (blocks.flatMap symsOf) s =
        (List.range (blocks.length - 1)).map fun k => (succType^[k + 1] last).code

/-- 41_synchronizer.md R126, 70_reset_and_hazards.md R167: after a commit, at most 25 SYMs with any IDLEs and reads
between them commit nothing and leave the slots, SYNC, LAST, CG and the held commit outputs as they were; only SR,
SKIP, the strobes and the model's own select wires move. A read as a step is notes/assumptions/2.md. -/
def Obligations.SlotsStayForTwentyFiveSymbols : Prop :=
  ∀ (l : List Instr) (s : State), s.legal = true → s.skip = 26#5 → (∀ i ∈ l, i ≠ .reset ∧ i.present Config.params = true) →
    countSyms l ≤ 25 →
    ∃ t, runInstrs l s = .next t ∧ commitsOf l s = [] ∧ t.slots = s.slots ∧ t.sync = s.sync ∧ t.last = s.last ∧
      t.cg = s.cg ∧ t.skip.toNat = 26 - countSyms l ∧ t.oType = s.oType ∧ t.oWord = s.oWord ∧
      t.oAvail = s.oAvail ∧ t.oKnown = s.oKnown ∧ t.oSyn = s.oSyn

/-- 42_control.md R131, 20_memory.md R55, 70_reset_and_hazards.md R174: leaving the IDLEs and the reads out of a run
changes no register but the strobes, and no commit. A read as a step of a run is the model's own
(notes/assumptions/2.md). -/
def Obligations.IdlesAndReadsDoNotMatter : Prop :=
  ∀ (l : List Instr) (s : State), s.legal = true → (∀ i ∈ l, i.present Config.params = true) →
    ∃ t u, runInstrs l s = .next t ∧ runInstrs (l.filter Instr.writes) s = .next u ∧ t.sameData u ∧
      commitsOf l s = commitsOf (l.filter Instr.writes) s

/-- 20_memory.md R46: after 26 SYMs SR holds them, the first in bit 25, whatever it held before. -/
def Obligations.WindowHoldsTheLastBlock : Prop :=
  ∀ (s : State) (w : BlockWord), s.legal = true → ∃ t, runInstrs (symsOf w) s = .next t ∧ t.sr = w

/-- 40_corrector.md R98, 41_synchronizer.md R111 and R116: a block-aligned machine that receives a valid block
commits its type and its payload, available, and its confidence grows. -/
def Obligations.ValidBlockIsCommitted : Prop :=
  ∀ (s : State) (ty : BlockType) (P : Payload), s.legal = true → s.skip = 26#5 →
    ∃ t, runInstrs (symsOf (validBlock Config.params ty P)) s = .next t ∧ t.oValid = true ∧ t.oKnown = true ∧
      t.oType = ty.code ∧ payload (t.slotRead ty).word = P ∧ (t.slotRead ty).avail = true ∧
      t.sync.toNat = min (s.sync.toNat + 1) 4 ∧ t.skip = 26#5 ∧
      ∀ other, other ≠ ty → t.slotRead other = s.slotRead other

/-- 40_corrector.md R100, 41_synchronizer.md R111, R114 and R116: a locked machine repairs a burst of up to 5 bits in the
block it expects next, when the burst makes its syndrome unknown. -/
def Obligations.BurstInTheExpectedBlockIsRepaired : Prop :=
  ∀ (s : State) (last : BlockType) (P : Payload) (e : BlockWord), s.legal = true → s.last = last.code →
    s.skip = 26#5 → 2 ≤ s.sync.toNat → IsCorrectableBurst e →
    known Config.params (syndrome (validBlock Config.params (succType last) P ^^^ e)) = false →
    ∃ t, runInstrs (symsOf (validBlock Config.params (succType last) P ^^^ e)) s = .next t ∧ t.oValid = true ∧
      t.oKnown = false ∧ t.oType = (succType last).code ∧ payload (t.slotRead (succType last)).word = P ∧
      (t.slotRead (succType last)).avail = true ∧ t.sync.toNat = s.sync.toNat - 1

/-! ### The corrector -/

/-- 40_corrector.md R87. -/
def Obligations.SyndromeIsLinear : Prop :=
  ∀ u v : BlockWord, syndrome (u ^^^ v) = syndrome u ^^^ syndrome v

/-- 30_encoding.md R74, 40_corrector.md R90: the syndrome of each single bit. -/
def Obligations.SyndromeOfEachBit : Prop :=
  (∀ p, 16 ≤ p → p ≤ 25 → syndrome (1#26 <<< p) = 1#10 <<< (p - 16)) ∧
  (List.range 16).map (fun p => syndrome (1#26 <<< p)) =
    [0b1100011011#10, 0b1110001111#10, 0b1010100111#10, 0b0011110111#10, 0b0111101110#10, 0b1111011100#10,
     0b1000000001#10, 0b0110111011#10, 0b1101110110#10, 0b1101010101#10, 0b1100010011#10, 0b1110011111#10,
     0b1010000111#10, 0b0010110111#10, 0b0101101110#10, 0b1011011100#10]

/-- 40_corrector.md R89: the syndrome is zero exactly for the words that g(x) divides; and those are the words
`{P, chk}` of 30_encoding.md R75. -/
def Obligations.SyndromeZeroIffCodeword : Prop :=
  ∀ w : BlockWord, (syndrome w = 0#10 ↔ polyMod w = 0#10) ∧
    (syndrome w = 0#10 ↔ w = mkBlock (payload w) (checkWord (payload w)))

/-- 40_corrector.md R91: OFFSET-REMOVE changes the check field only, by the offset of the claimed type. -/
def Obligations.OffsetTouchesTheCheckFieldOnly : Prop :=
  ∀ (p : Params) (w : BlockWord) (ty : BlockType),
    payload (unoffset p w ty) = payload w ∧ checkField (unoffset p w ty) = checkField w ^^^ offsetOf p ty

/-- 40_corrector.md R92: the syndrome of a valid block is its type's, whatever its payload. -/
def Obligations.ValidBlockHasItsTypesSyndrome : Prop :=
  ∀ (p : Params) (ty : BlockType) (P : Payload),
    syndrome (validBlock p ty P) = syndrome (zext26 (offsetOf p ty))

/-- 40_corrector.md R93: the default type syndromes, distinct and nonzero. The offsets they come from are
the spec's default parameter (notes/assumptions/6.md). -/
def Obligations.DefaultTypeSyndromes : Prop :=
  synTabs Config.params = [0x3D8#10, 0x3D4#10, 0x25C#10, 0x3CC#10, 0x258#10] ∧
    (synTabs Config.params).Nodup ∧ 0#10 ∉ synTabs Config.params

/-- 40_corrector.md R93: a configuration whose type syndromes are not distinct is refused by every operation, in
every state (that RESET is refused too is the model's reading, notes/assumptions/11.md). -/
def Obligations.IndistinctSyndromesRefused : Prop :=
  ∀ (p : Params) (s : State) (b : Bool) (port : Nat) (sel : Code),
    (∃ t u : BlockType, t ≠ u ∧ synTab p t = synTab p u) →
    resetAt p s = .refused .indistinctSyndromes ∧ idleAt p s = .refused .indistinctSyndromes ∧
    symAt p b s = .refused .indistinctSyndromes ∧ readAt p port sel s = .refused .indistinctSyndromes

/-- 40_corrector.md R98: a block with the syndrome of its type is stored recovered and unrepaired. -/
def Obligations.KnownSyndromeMeansNoRepair : Prop :=
  ∀ (p : Params) (w : BlockWord) (ty : BlockType), syndrome w = synTab p ty →
    correct p w ty = { word := w ^^^ zext26 (offsetOf p ty), avail := true }

/-- 40_corrector.md R97: no error detected. -/
def Obligations.ZeroSyndromeReturnsTheWord : Prop :=
  ∀ (p : Params) (w : BlockWord) (ty : BlockType), syndrome (unoffset p w ty) = 0#10 →
    correct p w ty = { word := unoffset p w ty, avail := true }

/-- 40_corrector.md R99: once the trap has fired, at any step of the walk, the block is recovered; a block that is
not recovered never trapped and ends with low bits that are not zero. -/
def Obligations.TrapMeansRecovered : Prop :=
  (∀ (n : Nat) (x : Walk), (walkFrom n x).found = true → (x.found = true → lowZero x.s = true) →
    lowZero (walkFrom n x).s = true) ∧
  (∀ (p : Params) (w : BlockWord) (ty : BlockType), (correct p w ty).avail = false →
    (walk (unoffset p w ty)).found = false ∧ lowZero (walk (unoffset p w ty)).s = false)

/-- 40_corrector.md R100: every burst of length 1 to 5 within bits 25..5 of a block of the type claimed is recovered
with the original payload; check bits are never corrected, whatever the word. -/
def Obligations.BurstsUpToFiveBitsAreCorrected : Prop :=
  (∀ (p : Params) (ty : BlockType) (P : Payload) (e : BlockWord), IsCorrectableBurst e →
    payload (correct p (validBlock p ty P ^^^ e) ty).word = P ∧
      (correct p (validBlock p ty P ^^^ e) ty).avail = true) ∧
  (∀ (p : Params) (w : BlockWord) (ty : BlockType),
    checkField (correct p w ty).word = checkField (unoffset p w ty))

/-- 40_corrector.md R101: errors in check bits 4..0 alone are reported unrecoverable and the payload is kept; the
walk does not trap and ends with the error pattern. -/
def Obligations.LowCheckErrorsAreUnrecoverable : Prop :=
  ∀ (p : Params) (ty : BlockType) (P : Payload) (e : BlockWord), IsLowCheckError e →
    (correct p (validBlock p ty P ^^^ e) ty).avail = false ∧
    payload (correct p (validBlock p ty P ^^^ e) ty).word = P ∧
    (walk (unoffset p (validBlock p ty P ^^^ e) ty)).found = false ∧
    (walk (unoffset p (validBlock p ty P ^^^ e) ty)).s = e.setWidth 10

/-- 40_corrector.md R102: a miscorrected 6-bit burst; 80 of the 336 bursts of length 6 on the valid A block of
payload 0x1234 are miscorrected. -/
def Obligations.SomeLongBurstsAreMiscorrected : Prop :=
  (payload (correct Config.params (validBlock Config.params .a 0x1234#16 ^^^ 0b100101#26) .a).word = 0x8A34#16 ∧
    (correct Config.params (validBlock Config.params .a 0x1234#16 ^^^ 0b100101#26) .a).avail = true) ∧
  (List.range 336).countP (fun n =>
    let x := correct Config.params
      (validBlock Config.params .a 0x1234#16 ^^^ BitVec.ofNat 26 ((33 + 2 * (n % 16)) <<< (n / 16))) .a
    x.avail && payload x.word != 0x1234#16) = 80

/-- 40_corrector.md R103: of the 1023 nonzero syndromes, 271 trap, 16 end recovered with no trap, and 736 end
unrecovered. -/
def Obligations.OutcomesOverAllSyndromes : Prop :=
  let ends := (List.range 1023).map fun n => walkFrom 16 { s := BitVec.ofNat 10 (n + 1), out := 0#26, found := false }
  ends.countP (fun x => x.found && lowZero x.s) = 271 ∧ ends.countP (fun x => !x.found && lowZero x.s) = 16 ∧
    ends.countP (fun x => !lowZero x.s) = 736 ∧
    (ends.filter fun x => !x.found && lowZero x.s).all (fun x => x.out == 0#26) = true

/-- 40_corrector.md R104: the flip pattern and the flag are functions of the syndrome alone. -/
def Obligations.RepairDependsOnTheSyndromeAlone : Prop :=
  ∀ (p q : Params) (v w : BlockWord) (t u : BlockType), syndrome (unoffset p v t) = syndrome (unoffset q w u) →
    (correct p v t).word ^^^ unoffset p v t = (correct q w u).word ^^^ unoffset q w u ∧
      (correct p v t).avail = (correct q w u).avail

/-! ### Encodings and steps -/

/-- 30_encoding.md R64 and R66: the operation of each of the eight commands, and the rows of the opcode table. -/
def Obligations.CommandsDecodeAsTheTableSays : Prop :=
  (∀ lo : BitVec 2, decodeFrame (commandFrame (1#1 ++ lo)) = .ok .reset) ∧
  (∀ x : BitVec 1, decodeFrame (commandFrame (0b00#2 ++ x)) = .ok .idle) ∧
  decodeFrame (commandFrame 0b010#3) = .ok (.sym false) ∧ decodeFrame (commandFrame 0b011#3) = .ok (.sym true) ∧
  ∀ c : Cmd, ∃ i, decodeFrame (commandFrame c) = .ok i ∧
    ∀ r ∈ opcodeRows, r.matchesCmd c = true ↔
      (r.mnemonic = "RESET" ∧ i = .reset) ∨ (r.mnemonic = "IDLE" ∧ i = .idle) ∨
      (r.mnemonic = "SYM" ∧ i = .sym (c.getLsbD 0))

/-- 30_encoding.md R65: SYM's operand is CMD[0], RST has priority, and SYM is ignored when SYM_VALID is 0. -/
def Obligations.CommandFieldPriority : Prop :=
  ∀ c : Cmd,
    (c.getLsbD 2 = true → decodeCommand c = .reset) ∧
    (c.getLsbD 2 = false → c.getLsbD 1 = true → decodeCommand c = .sym (c.getLsbD 0)) ∧
    (c.getLsbD 2 = false → c.getLsbD 1 = false → decodeCommand c = decodeCommand (c ^^^ 1#3))

/-- Words written out from 30_encoding.md R64 and R67. The frame around them is the model's own: the mark and the
port number of a read frame (notes/assumptions/1.md, 8.md), and that a command frame with an upper bit set is
refused (notes/assumptions/9.md). -/
def Obligations.SampleWordsDecode : Prop :=
  decodeTableWord 8 0b100 = some .reset ∧ decodeTableWord 8 0b111 = some .reset ∧
  decodeTableWord 8 0b000 = some .idle ∧ decodeTableWord 8 0b001 = some .idle ∧
  decodeTableWord 8 0b010 = some (.sym false) ∧ decodeTableWord 8 0b011 = some (.sym true) ∧
  decodeTableWord 8 0b1011 = some (.read 0 3#3) ∧ decodeTableWord 8 0b1111 = some (.read 0 7#3) ∧
  decodeTableWord 8 0b11000 = some (.read 1 0#3) ∧ decodeTableWord 8 0b11111111 = some (.read 15 7#3) ∧
  decodeTableWord 8 0b10000 = none

/-- Every well-formed operation, followed by any bytes, decodes from its encoding with every operand intact; and
whatever decodes is well-formed (30_encoding.md R64, R67; the framing is notes/assumptions/1.md). -/
def Obligations.DecodeOfEncode : Prop :=
  (∀ (i : Instr) (rest : List Byte), i.wf = true → decode (encode i ++ rest) = .ok (i, rest)) ∧
  (∀ (bytes rest : List Byte) (i : Instr), decode bytes = .ok (i, rest) →
    i.wf = true ∧ ∃ f, bytes = f :: rest)

/-- A step takes the first pending sample and does its operation (10_state.md R29; notes/assumptions/1.md). -/
def Obligations.StepRunsTheDecodedOperation : Prop :=
  ∀ (s : State) (f : Byte) (rest : List Byte) (i : Instr), s.inputs = f :: rest → decodeFrame f = .ok i →
    step s = exec i { s with inputs := rest }

/-- The host's table words reach `exec`: the word's operation runs as the next step (notes/assumptions/4.md). -/
def Obligations.StepRunsTheTableWord : Prop :=
  ∀ (s : State) (w : Nat) (i : Instr), decodeTableWord 8 w = some i → step (s.withFetchWord 8 w) = exec i s

/-- With no pending sample, one that is no sample of the command port, or a select for a port the block does not
have, a step is refused by name (42_control.md R135; notes/assumptions/3.md, 9.md, 8.md). -/
def Obligations.StepRefusesWhatIsNoSample : Prop :=
  (∀ s : State, s.inputs = [] → step s = .refused .noSample) ∧
  (∀ (s : State) (f : Byte) (rest : List Byte), s.inputs = f :: rest → f.getLsbD 3 = false → 16 ≤ f.toNat →
    step s = .refused (.notASample .reservedFrameBits)) ∧
  (∀ (s : State) (f : Byte) (rest : List Byte), s.inputs = f :: rest → f.getLsbD 3 = true → 16 ≤ f.toNat →
    s.legal = true → step s = .refused .absentReadPort)

/-! ### Whole-machine rules -/

/-- 60_exceptions.md R141, 41_synchronizer.md R130: every operation of the block has a next state in every state
that holds no unreachable value, and that state holds none either. -/
def Obligations.EveryOperationCompletes : Prop :=
  ∀ (i : Instr) (s : State), i.present Config.params = true → s.legal = true →
    ∃ t, exec i s = .next t ∧ t.legal = true

/-- 92_eei_decisions.md D7, D11, D12, D14: every parameter of 00_scope.md R8 is an argument. The machine of `exec` and
`step` is the one of the defaults; every operation a block has completes whatever its parameters (60_exceptions.md
R141; the refusals of 93 U3, U5 and of R93 apart), and every step of every block keeps 10_state.md R34's
invariants. -/
def Obligations.EveryConfigurationRunsAndKeepsTheInvariants : Prop :=
  (∀ (i : Instr) (s : State), exec i s = execAt Config.params i s ∧ step s = stepAt Config.params s) ∧
  (∀ (p : Params) (i : Instr) (s : State), syndromesDistinct p = true → i.present p = true → s.legal = true →
    ∃ t, execAt p i s = .next t ∧ t.legal = true) ∧
  (∀ (p : Params) (s t : State), s.Inv → stepAt p s = .next t → t.Inv)

/-- 93_implementation_defined.md U3 and U5: IDLE, SYM and READ refuse a state that holds an unreachable value; RESET
leaves such a state (42_control.md R132). The refusal is the model's reading (notes/assumptions/5.md). -/
def Obligations.UnreachableStatesRefused : Prop :=
  ∀ s : State,
    (5 ≤ s.sync.toNat ∨ 27 ≤ s.skip.toNat ∨ 5 ≤ s.last.toNat ∨ s.cg = 3#2 ∨ 5 ≤ s.oType.toNat) →
    exec .idle s = .refused .unreachableState ∧ (∀ b, exec (.sym b) s = .refused .unreachableState) ∧
    (∀ port sel, exec (.read port sel) s = .refused .unreachableState) ∧
    ∃ t, exec .reset s = .next t ∧ t.legal = true

/-- 10_state.md R34 at reset. -/
def Obligations.InvariantsHoldAtReset : Prop :=
  State.reset.Inv ∧ State.reset.ContInv ∧ State.reset.OutInv Config.params

/-- 10_state.md R34: the invariants hold after RESET, from whatever state, and after every step from a state where
they hold. -/
def Obligations.StepKeepsTheInvariants : Prop :=
  (∀ s : State, ∃ t, exec .reset s = .next t ∧ t.Inv) ∧ ∀ s t : State, s.Inv → step s = .next t → t.Inv

/-- 41_synchronizer.md R117: what CG holds after a commit of each type is kept by every step. -/
def Obligations.StepKeepsTheContinuityInvariant : Prop :=
  ∀ s t : State, s.ContInv → step s = .next t → t.ContInv

/-- 60_exceptions.md R147, 41_synchronizer.md R122: the commit outputs describe the commit of LAST, after every
step. -/
def Obligations.StepKeepsTheOutputsPrecise : Prop :=
  ∀ s t : State, s.ContInv → s.OutInv Config.params → step s = .next t → t.OutInv Config.params
end

