-- ==== Sys2Proof/Laws/Corrector.lean ====
section
/-! SUPPORT. Small laws of the corrector's functions (40_corrector.md): their equations, and that a bit step is a
linear map, from which a proof about words goes by induction. -/

namespace Sys2Proof.Machine

@[simp] theorem syndromeFrom_zero (w : BlockWord) (s : Word10) : syndromeFrom w 0 s = s := rfl

theorem syndromeFrom_succ (w : BlockWord) (n : Nat) (s : Word10) :
    syndromeFrom w (n + 1) s = syndromeFrom w n (syndromeStep s (w.getLsbD n)) := rfl

@[simp] theorem walkFrom_zero (x : Walk) : walkFrom 0 x = x := rfl

theorem walkFrom_succ (n : Nat) (x : Walk) : walkFrom (n + 1) x = walkFrom n (walkStep n x) := rfl

/-- The feedback shift is linear. -/
theorem lfsrShift_xor (s u : Word10) : lfsrShift (s ^^^ u) = lfsrShift s ^^^ lfsrShift u := by
  unfold lfsrShift
  rw [BitVec.getLsbD_xor, BitVec.shiftLeft_xor_distrib]
  cases s.getLsbD 9 <;> cases u.getLsbD 9
  · rfl
  · exact BitVec.xor_assoc ..
  · simp only [Bool.xor_false, if_true, Bool.false_eq_true, if_false]
    ac_rfl
  · calc s <<< 1 ^^^ u <<< 1 = s <<< 1 ^^^ u <<< 1 ^^^ (Config.lfsrPoly ^^^ Config.lfsrPoly) := by
          rw [BitVec.xor_self, BitVec.xor_zero]
      _ = (s <<< 1 ^^^ Config.lfsrPoly) ^^^ (u <<< 1 ^^^ Config.lfsrPoly) := by ac_rfl

/-- A bit step of the syndrome register is linear in the register and the bit. -/
theorem syndromeStep_xor (s u : Word10) (a b : Bool) :
    syndromeStep (s ^^^ u) (a ^^ b) = syndromeStep s a ^^^ syndromeStep u b := by
  unfold syndromeStep
  rw [lfsrShift_xor]
  cases a <;> cases b <;>
    simp only [Bool.xor_self, Bool.xor_true, Bool.xor_false, Bool.not_false, if_true, if_false, Bool.false_eq_true]
  · ac_rfl
  · ac_rfl
  · calc lfsrShift s ^^^ lfsrShift u = lfsrShift s ^^^ lfsrShift u ^^^ (Config.inPoly ^^^ Config.inPoly) := by
          rw [BitVec.xor_self, BitVec.xor_zero]
      _ = (lfsrShift s ^^^ Config.inPoly) ^^^ (lfsrShift u ^^^ Config.inPoly) := by ac_rfl

theorem zext26_xor (a b : Word10) : zext26 (a ^^^ b) = zext26 a ^^^ zext26 b := by
  unfold zext26
  ext i hi
  simp

theorem payload_xor (a b : BlockWord) : payload (a ^^^ b) = payload a ^^^ payload b := by
  unfold payload
  ext i hi
  simp

/-- Low bits that are zero stay zero under a shift without feedback (R99). -/
theorem lowZero_shift {s : Word10} (h : lowZero s = true) : lowZero (s <<< 1) = true := by
  unfold lowZero Config.trapWidth at *
  simp only [beq_iff_eq] at *
  ext i hi
  have := congrArg (fun x => x.getLsbD (i - 1)) h
  simp at this ⊢
  exact fun _ _ => this (by omega)

/-- A step of the walk after the trap shifts with no feedback. -/
theorem walkStep_found {i : Nat} {x : Walk} (h : x.found = true) :
    walkStep i x = { s := x.s <<< 1,
                     out := if x.s.getLsbD 9 then x.out ^^^ (1#26 <<< (i + 10)) else x.out, found := true } := by
  simp [walkStep, h]

theorem walk_of_syndrome_zero {v : BlockWord} (h : syndrome v = 0#10) :
    walk v = { s := 0#10, out := v, found := false } := by
  simp [walk, h]

theorem walk_of_syndrome_ne_zero {v : BlockWord} (h : syndrome v ≠ 0#10) :
    walk v = walkFrom 16 { s := syndrome v, out := v, found := false } := by
  simp [walk, h, Config.dataLen]

@[simp] theorem lowZero_zero : lowZero 0#10 = true := by decide

theorem getLsbD_mkBlock (P : Payload) (c : Word10) (i : Nat) :
    (mkBlock P c).getLsbD i = if i < 10 then c.getLsbD i else P.getLsbD (i - 10) :=
  BitVec.getLsbD_append

theorem payload_mkBlock (P : Payload) (c : Word10) : payload (mkBlock P c) = P := by
  unfold payload
  ext i hi
  simp [getLsbD_mkBlock, hi]

theorem checkField_mkBlock (P : Payload) (c : Word10) : checkField (mkBlock P c) = c := by
  unfold checkField
  ext i hi
  simp [getLsbD_mkBlock, hi]

/-- A block word is its payload and its check field. -/
theorem mkBlock_payload_checkField (w : BlockWord) : mkBlock (payload w) (checkField w) = w := by
  apply BitVec.eq_of_getLsbD_eq
  intro i hi
  rw [getLsbD_mkBlock, payload, checkField]
  split
  · rw [BitVec.getLsbD_extractLsb']; simp [*]
  · simp only [BitVec.getLsbD_extractLsb']
    rw [show 10 + (i - 10) = i by omega]
    simp; omega

/-- The check field enters a block by XOR. -/
theorem mkBlock_eq_xor (P : Payload) (c : Word10) : mkBlock P c = mkBlock P 0#10 ^^^ zext26 c := by
  apply BitVec.eq_of_getLsbD_eq
  intro i hi
  simp only [getLsbD_mkBlock, BitVec.getLsbD_xor, zext26, BitVec.getLsbD_setWidth, hi]
  split
  · simp
  · simp [BitVec.getLsbD_of_ge c i (by omega)]

/-- A detected type is one whose syndrome the value is. -/
theorem detect_some {p : Params} {s : Word10} {t : BlockType} (h : detect p s = some t) : s = synTab p t := by
  unfold detect at h
  repeat' split at h
  all_goals first | (cases h; assumption) | cases h

/-- KNOWN is 0 exactly when the value is none of the five (R110). -/
theorem known_eq_false_iff {p : Params} {s : Word10} : known p s = false ↔ ∀ t, s ≠ synTab p t := by
  constructor
  · intro h t ht
    subst ht
    revert h
    unfold known detect
    cases t <;> (repeat' split) <;> simp_all
  · intro h
    cases hd : detect p s with
    | none => simp [known, hd]
    | some t => exact absurd (detect_some hd) (h t)

theorem commitType_known {p : Params} {last t : BlockType} {s : Word10} (h : detect p s = some t) :
    commitType p last s = t := by
  simp [commitType, h]

theorem commitType_guess {p : Params} {last : BlockType} {s : Word10} (h : known p s = false) :
    commitType p last s = succType last := by
  cases hd : detect p s with
  | none => simp [commitType, hd]
  | some t => simp [known, hd] at h

end Sys2Proof.Machine
end

