-- ==== Sys2Proof/Laws/Encoding.lean ====
section
/-! SUPPORT. Laws of the encodings (30_encoding.md): type codes, the command rows, frames. -/

namespace Sys2Proof

@[simp] theorem BlockType.ofCode_code (t : BlockType) : BlockType.ofCode t.code = some t := by
  cases t <;> rfl

theorem BlockType.code_injective {t u : BlockType} (h : t.code = u.code) : t = u := by
  have := congrArg BlockType.ofCode h
  simpa using this

@[simp] theorem BlockType.code_inj {t u : BlockType} : t.code = u.code ↔ t = u :=
  ⟨BlockType.code_injective, fun h => h ▸ rfl⟩

theorem BlockType.code_le (t : BlockType) : t.code.toNat ≤ 4 := by cases t <;> decide

theorem BlockType.ofCode_eq_some {c : Code} {t : BlockType} : BlockType.ofCode c = some t ↔ c = t.code := by
  constructor
  · revert c; cases t <;> decide
  · rintro rfl; simp

theorem BlockType.ofCode_eq_none {c : Code} : BlockType.ofCode c = none ↔ 5 ≤ c.toNat := by
  revert c; decide

theorem BlockType.exists_code_of_le {c : Code} (h : c.toNat ≤ 4) : ∃ t : BlockType, c = t.code := by
  cases hc : BlockType.ofCode c with
  | none => have := BlockType.ofCode_eq_none.mp hc; omega
  | some t => exact ⟨t, BlockType.ofCode_eq_some.mp hc⟩

/-- No command is a word of two rows of the table (R66). -/
theorem opcodeRows_disjoint :
    opcodeRows.Pairwise fun r q => ∀ c : Cmd, ¬(r.matchesCmd c = true ∧ q.matchesCmd c = true) := by
  decide

/-- Every command is a word of some row (R66). -/
theorem opcodeRows_cover (c : Cmd) : ∃ r ∈ opcodeRows, r.matchesCmd c = true := by
  revert c; decide

theorem decodeFrame_command (c : Cmd) : decodeFrame (commandFrame c) = .ok (decodeCommand c) := by
  revert c; decide

@[simp] theorem decode_nil : decode [] = .error .noFrame := rfl

theorem decode_cons_ok {f : Byte} {i : Instr} (h : decodeFrame f = .ok i) (rest : List Byte) :
    decode (f :: rest) = .ok (i, rest) := by
  simp [decode, h]

theorem decode_cons_error {f : Byte} {e : DecodeError} (h : decodeFrame f = .error e) (rest : List Byte) :
    decode (f :: rest) = .error e := by
  simp [decode, h]

/-- A read frame decodes to a READ of the port it names. -/
theorem decodeFrame_read {f : Byte} (h : f.getLsbD 3 = true) :
    decodeFrame f = .ok (.read (f.extractLsb' 4 4).toNat (f.extractLsb' 0 3)) := by
  simp [decodeFrame, h]

/-- What a frame carries is well-formed. -/
theorem decodeFrame_wf {f : Byte} {i : Instr} (h : decodeFrame f = .ok i) : i.wf = true := by
  unfold decodeFrame at h
  split at h
  · cases h; exact decide_eq_true (f.extractLsb' 4 4).isLt
  · split at h
    · cases h
      unfold decodeCommand
      split
      · rfl
      · split <;> rfl
    · cases h

end Sys2Proof
end

