-- ==== Sys2Proof/Laws/State.lean ====
section
/-! SUPPORT. One lemma for each field and each update of the state, true by `rfl`, so that no proof unfolds a record
update. -/

namespace Sys2Proof.Machine

/-! ### `clearStrobes` (R123) -/

@[simp] theorem State.clearStrobes_sr (s : State) : (s.clearStrobes).sr = s.sr := rfl
@[simp] theorem State.clearStrobes_sync (s : State) : (s.clearStrobes).sync = s.sync := rfl
@[simp] theorem State.clearStrobes_skip (s : State) : (s.clearStrobes).skip = s.skip := rfl
@[simp] theorem State.clearStrobes_last (s : State) : (s.clearStrobes).last = s.last := rfl
@[simp] theorem State.clearStrobes_cg (s : State) : (s.clearStrobes).cg = s.cg := rfl
@[simp] theorem State.clearStrobes_slots (s : State) : (s.clearStrobes).slots = s.slots := rfl
@[simp] theorem State.clearStrobes_oValid (s : State) : (s.clearStrobes).oValid = false := rfl
@[simp] theorem State.clearStrobes_oType (s : State) : (s.clearStrobes).oType = s.oType := rfl
@[simp] theorem State.clearStrobes_oWord (s : State) : (s.clearStrobes).oWord = s.oWord := rfl
@[simp] theorem State.clearStrobes_oAvail (s : State) : (s.clearStrobes).oAvail = s.oAvail := rfl
@[simp] theorem State.clearStrobes_oKnown (s : State) : (s.clearStrobes).oKnown = s.oKnown := rfl
@[simp] theorem State.clearStrobes_oSyn (s : State) : (s.clearStrobes).oSyn = s.oSyn := rfl
@[simp] theorem State.clearStrobes_oEva (s : State) : (s.clearStrobes).oEva = false := rfl
@[simp] theorem State.clearStrobes_oEvb (s : State) : (s.clearStrobes).oEvb = false := rfl
@[simp] theorem State.clearStrobes_oEvg (s : State) : (s.clearStrobes).oEvg = false := rfl
@[simp] theorem State.clearStrobes_rdSel (s : State) : (s.clearStrobes).rdSel = s.rdSel := rfl
@[simp] theorem State.clearStrobes_inputs (s : State) : (s.clearStrobes).inputs = s.inputs := rfl

/-! ### `slotWrite` (00_scope.md R13) -/

@[simp] theorem State.slotWrite_sr (s : State) (t : BlockType) (x : Slot) : (s.slotWrite t x).sr = s.sr := rfl
@[simp] theorem State.slotWrite_sync (s : State) (t : BlockType) (x : Slot) : (s.slotWrite t x).sync = s.sync := rfl
@[simp] theorem State.slotWrite_skip (s : State) (t : BlockType) (x : Slot) : (s.slotWrite t x).skip = s.skip := rfl
@[simp] theorem State.slotWrite_last (s : State) (t : BlockType) (x : Slot) : (s.slotWrite t x).last = s.last := rfl
@[simp] theorem State.slotWrite_cg (s : State) (t : BlockType) (x : Slot) : (s.slotWrite t x).cg = s.cg := rfl
@[simp] theorem State.slotWrite_slots (s : State) (t : BlockType) (x : Slot) : (s.slotWrite t x).slots = s.slots.set t x := rfl
@[simp] theorem State.slotWrite_oValid (s : State) (t : BlockType) (x : Slot) : (s.slotWrite t x).oValid = s.oValid := rfl
@[simp] theorem State.slotWrite_oType (s : State) (t : BlockType) (x : Slot) : (s.slotWrite t x).oType = s.oType := rfl
@[simp] theorem State.slotWrite_oWord (s : State) (t : BlockType) (x : Slot) : (s.slotWrite t x).oWord = s.oWord := rfl
@[simp] theorem State.slotWrite_oAvail (s : State) (t : BlockType) (x : Slot) : (s.slotWrite t x).oAvail = s.oAvail := rfl
@[simp] theorem State.slotWrite_oKnown (s : State) (t : BlockType) (x : Slot) : (s.slotWrite t x).oKnown = s.oKnown := rfl
@[simp] theorem State.slotWrite_oSyn (s : State) (t : BlockType) (x : Slot) : (s.slotWrite t x).oSyn = s.oSyn := rfl
@[simp] theorem State.slotWrite_oEva (s : State) (t : BlockType) (x : Slot) : (s.slotWrite t x).oEva = s.oEva := rfl
@[simp] theorem State.slotWrite_oEvb (s : State) (t : BlockType) (x : Slot) : (s.slotWrite t x).oEvb = s.oEvb := rfl
@[simp] theorem State.slotWrite_oEvg (s : State) (t : BlockType) (x : Slot) : (s.slotWrite t x).oEvg = s.oEvg := rfl
@[simp] theorem State.slotWrite_rdSel (s : State) (t : BlockType) (x : Slot) : (s.slotWrite t x).rdSel = s.rdSel := rfl
@[simp] theorem State.slotWrite_inputs (s : State) (t : BlockType) (x : Slot) : (s.slotWrite t x).inputs = s.inputs := rfl

/-! ### `driveSel` (42_control.md R133) -/

@[simp] theorem driveSel_sr (port : Nat) (sel : Code) (s : State) : (driveSel port sel s).sr = s.sr := rfl
@[simp] theorem driveSel_sync (port : Nat) (sel : Code) (s : State) : (driveSel port sel s).sync = s.sync := rfl
@[simp] theorem driveSel_skip (port : Nat) (sel : Code) (s : State) : (driveSel port sel s).skip = s.skip := rfl
@[simp] theorem driveSel_last (port : Nat) (sel : Code) (s : State) : (driveSel port sel s).last = s.last := rfl
@[simp] theorem driveSel_cg (port : Nat) (sel : Code) (s : State) : (driveSel port sel s).cg = s.cg := rfl
@[simp] theorem driveSel_slots (port : Nat) (sel : Code) (s : State) : (driveSel port sel s).slots = s.slots := rfl
@[simp] theorem driveSel_oValid (port : Nat) (sel : Code) (s : State) : (driveSel port sel s).oValid = s.oValid := rfl
@[simp] theorem driveSel_oType (port : Nat) (sel : Code) (s : State) : (driveSel port sel s).oType = s.oType := rfl
@[simp] theorem driveSel_oWord (port : Nat) (sel : Code) (s : State) : (driveSel port sel s).oWord = s.oWord := rfl
@[simp] theorem driveSel_oAvail (port : Nat) (sel : Code) (s : State) : (driveSel port sel s).oAvail = s.oAvail := rfl
@[simp] theorem driveSel_oKnown (port : Nat) (sel : Code) (s : State) : (driveSel port sel s).oKnown = s.oKnown := rfl
@[simp] theorem driveSel_oSyn (port : Nat) (sel : Code) (s : State) : (driveSel port sel s).oSyn = s.oSyn := rfl
@[simp] theorem driveSel_oEva (port : Nat) (sel : Code) (s : State) : (driveSel port sel s).oEva = s.oEva := rfl
@[simp] theorem driveSel_oEvb (port : Nat) (sel : Code) (s : State) : (driveSel port sel s).oEvb = s.oEvb := rfl
@[simp] theorem driveSel_oEvg (port : Nat) (sel : Code) (s : State) : (driveSel port sel s).oEvg = s.oEvg := rfl
@[simp] theorem driveSel_rdSel (port : Nat) (sel : Code) (s : State) : (driveSel port sel s).rdSel = setLevel sel port s.rdSel := rfl
@[simp] theorem driveSel_inputs (port : Nat) (sel : Code) (s : State) : (driveSel port sel s).inputs = s.inputs := rfl

/-! ### `resetRegisters` (R132) -/

@[simp] theorem resetRegisters_sr (s : State) : (resetRegisters s).sr = 0#26 := rfl
@[simp] theorem resetRegisters_sync (s : State) : (resetRegisters s).sync = 0#3 := rfl
@[simp] theorem resetRegisters_skip (s : State) : (resetRegisters s).skip = 0#5 := rfl
@[simp] theorem resetRegisters_last (s : State) : (resetRegisters s).last = 0#3 := rfl
@[simp] theorem resetRegisters_cg (s : State) : (resetRegisters s).cg = 0#2 := rfl
@[simp] theorem resetRegisters_slots (s : State) : (resetRegisters s).slots = SlotFile.reset := rfl
@[simp] theorem resetRegisters_oValid (s : State) : (resetRegisters s).oValid = false := rfl
@[simp] theorem resetRegisters_oType (s : State) : (resetRegisters s).oType = 0#3 := rfl
@[simp] theorem resetRegisters_oWord (s : State) : (resetRegisters s).oWord = 0#26 := rfl
@[simp] theorem resetRegisters_oAvail (s : State) : (resetRegisters s).oAvail = false := rfl
@[simp] theorem resetRegisters_oKnown (s : State) : (resetRegisters s).oKnown = false := rfl
@[simp] theorem resetRegisters_oSyn (s : State) : (resetRegisters s).oSyn = 0#10 := rfl
@[simp] theorem resetRegisters_oEva (s : State) : (resetRegisters s).oEva = false := rfl
@[simp] theorem resetRegisters_oEvb (s : State) : (resetRegisters s).oEvb = false := rfl
@[simp] theorem resetRegisters_oEvg (s : State) : (resetRegisters s).oEvg = false := rfl
@[simp] theorem resetRegisters_rdSel (s : State) : (resetRegisters s).rdSel = s.rdSel := rfl
@[simp] theorem resetRegisters_inputs (s : State) : (resetRegisters s).inputs = s.inputs := rfl

/-! ### `State.reset` (10_state.md R35) -/

@[simp] theorem State.reset_sr : State.reset.sr = 0#26 := rfl
@[simp] theorem State.reset_sync : State.reset.sync = 0#3 := rfl
@[simp] theorem State.reset_skip : State.reset.skip = 0#5 := rfl
@[simp] theorem State.reset_last : State.reset.last = 0#3 := rfl
@[simp] theorem State.reset_cg : State.reset.cg = 0#2 := rfl
@[simp] theorem State.reset_slots : State.reset.slots = SlotFile.reset := rfl
@[simp] theorem State.reset_oValid : State.reset.oValid = false := rfl
@[simp] theorem State.reset_oType : State.reset.oType = 0#3 := rfl
@[simp] theorem State.reset_oWord : State.reset.oWord = 0#26 := rfl
@[simp] theorem State.reset_oAvail : State.reset.oAvail = false := rfl
@[simp] theorem State.reset_oKnown : State.reset.oKnown = false := rfl
@[simp] theorem State.reset_oSyn : State.reset.oSyn = 0#10 := rfl
@[simp] theorem State.reset_oEva : State.reset.oEva = false := rfl
@[simp] theorem State.reset_oEvb : State.reset.oEvb = false := rfl
@[simp] theorem State.reset_oEvg : State.reset.oEvg = false := rfl
@[simp] theorem State.reset_rdSel : State.reset.rdSel = [] := rfl
@[simp] theorem State.reset_inputs : State.reset.inputs = [] := rfl

/-! ### `commit` (41_synchronizer.md R114 to R122) -/

section
variable (p : Params) (last : BlockType) (sr : BlockWord) (syn : Word10) (nsync : Nat) (s : State)

@[simp] theorem commit_sr :
    (commit p last sr syn nsync s).sr = sr := rfl
@[simp] theorem commit_sync :
    (commit p last sr syn nsync s).sync = BitVec.ofNat 3 nsync := rfl
@[simp] theorem commit_skip :
    (commit p last sr syn nsync s).skip = 26#5 := rfl
@[simp] theorem commit_last :
    (commit p last sr syn nsync s).last = (commitType p last syn).code := rfl
@[simp] theorem commit_cg :
    (commit p last sr syn nsync s).cg = (cont p last s.cg (commitType p last syn)).cg := rfl
@[simp] theorem commit_slots :
    (commit p last sr syn nsync s).slots = s.slots.set (commitType p last syn) (correct p sr (commitType p last syn)) := rfl
@[simp] theorem commit_oValid :
    (commit p last sr syn nsync s).oValid = true := rfl
@[simp] theorem commit_oType :
    (commit p last sr syn nsync s).oType = (commitType p last syn).code := rfl
@[simp] theorem commit_oWord :
    (commit p last sr syn nsync s).oWord = (correct p sr (commitType p last syn)).word := rfl
@[simp] theorem commit_oAvail :
    (commit p last sr syn nsync s).oAvail = (correct p sr (commitType p last syn)).avail := rfl
@[simp] theorem commit_oKnown :
    (commit p last sr syn nsync s).oKnown = known p syn := rfl
@[simp] theorem commit_oSyn :
    (commit p last sr syn nsync s).oSyn = syn := rfl
@[simp] theorem commit_oEva :
    (commit p last sr syn nsync s).oEva = (cont p last s.cg (commitType p last syn)).evA := rfl
@[simp] theorem commit_oEvb :
    (commit p last sr syn nsync s).oEvb = (cont p last s.cg (commitType p last syn)).evB := rfl
@[simp] theorem commit_oEvg :
    (commit p last sr syn nsync s).oEvg = (cont p last s.cg (commitType p last syn)).evG := rfl
@[simp] theorem commit_rdSel :
    (commit p last sr syn nsync s).rdSel = s.rdSel := rfl
@[simp] theorem commit_inputs :
    (commit p last sr syn nsync s).inputs = s.inputs := rfl

end

end Sys2Proof.Machine
end

