-- ==== Sys2Proof/Laws/Ops.lean ====
section
/-! SUPPORT. What each shared operation of Machine/Ops.lean can do, once. -/

namespace Sys2Proof.Machine

/-! ### The slot file: read after write -/

@[simp] theorem SlotFile.get_set_same (f : SlotFile) (t : BlockType) (x : Slot) : (f.set t x).get t = x := by
  cases t <;> rfl

theorem SlotFile.get_set_other (f : SlotFile) {t u : BlockType} (x : Slot) (h : u ≠ t) :
    (f.set t x).get u = f.get u := by
  cases t <;> cases u <;> first | rfl | exact absurd rfl h

/-- Two slot files with the same five entries are the same data: the slot file has one form for its contents. -/
theorem SlotFile.ext_get {f g : SlotFile} (h : ∀ t, f.get t = g.get t) : f = g := by
  have ha := h .a; have hb := h .b; have hc := h .c; have hcp := h .cp; have hd := h .d
  cases f; cases g
  simp only [SlotFile.get] at ha hb hc hcp hd
  subst ha hb hc hcp hd
  rfl

@[simp] theorem State.slotRead_slotWrite_same (s : State) (t : BlockType) (x : Slot) :
    (s.slotWrite t x).slotRead t = x := SlotFile.get_set_same ..

theorem State.slotRead_slotWrite_other (s : State) {t u : BlockType} (x : Slot) (h : u ≠ t) :
    (s.slotWrite t x).slotRead u = s.slotRead u := SlotFile.get_set_other _ _ h

@[simp] theorem State.readSel_code (s : State) (t : BlockType) : s.readSel t.code = s.slotRead t := by
  simp [State.readSel]

theorem State.readSel_reserved (s : State) {sel : Code} (h : 5 ≤ sel.toNat) :
    s.readSel sel = { word := 0#26, avail := false } := by
  simp [State.readSel, BlockType.ofCode_eq_none.mpr h]

@[simp] theorem SlotFile.get_reset (t : BlockType) : SlotFile.reset.get t = Slot.reset := by cases t <;> rfl

/-- A commit's slot holds what CORRECT returns (R116). -/
theorem commit_slotRead_same (p : Params) (last : BlockType) (sr : BlockWord) (syn : Word10) (n : Nat) (s : State) :
    (commit p last sr syn n s).slotRead (commitType p last syn) = correct p sr (commitType p last syn) := by
  unfold State.slotRead
  rw [commit_slots, SlotFile.get_set_same]

/-- A commit leaves the slots of the other types (R116). -/
theorem commit_slotRead_other (p : Params) (last : BlockType) (sr : BlockWord) (syn : Word10) (n : Nat) (s : State)
    {u : BlockType} (h : u ≠ commitType p last syn) : (commit p last sr syn n s).slotRead u = s.slotRead u := by
  unfold State.slotRead
  rw [commit_slots, SlotFile.get_set_other _ _ h]

/-! ### The read port -/

theorem getD_setLevel (sel : Code) (port other : Nat) (l : List Code) :
    (setLevel sel port l).getD other 0#3 = if other = port then sel else l.getD other 0#3 := by
  induction port generalizing other l with
  | zero => cases l <;> cases other <;> simp [setLevel]
  | succ n ih =>
    cases other with
    | zero => cases l <;> simp [setLevel]
    | succ m =>
      cases l with
      | nil => simpa [setLevel] using ih m []
      | cons x l => simpa [setLevel] using ih m l

/-- A reader moves the wires of its own port and no other. -/
@[simp] theorem driveSel_rdLevel (port other : Nat) (sel : Code) (s : State) :
    (driveSel port sel s).rdLevel other = if other = port then sel else s.rdLevel other :=
  getD_setLevel sel port other s.rdSel

/-- Moving the select wires changes no slot. -/
@[simp] theorem driveSel_readSel (port : Nat) (sel x : Code) (s : State) :
    (driveSel port sel s).readSel x = s.readSel x := rfl

/-- Everything a READ shows: its own port the slot of its select, every other port what it showed before. -/
theorem driveSel_readPort (p : Params) (port other : Nat) (sel : Code) (s : State) :
    (driveSel port sel s).readPort p other =
      if other = port ∧ other < p.nRdPorts then some (s.readSel sel) else s.readPort p other := by
  by_cases h : other = port
  · subst h; by_cases hp : other < p.nRdPorts <;> simp [State.readPort, hp]
  · simp [State.readPort, h]

/-! ### The checks that refuse -/

/-- The default configuration passes R93's check. -/
theorem params_syndromesDistinct : syndromesDistinct Config.params = true := by decide +kernel

theorem onConfig_next {p : Params} {k : Answer} {t : State} :
    onConfig p k = .next t ↔ syndromesDistinct p = true ∧ k = .next t := by
  unfold onConfig
  split <;> simp_all

@[simp] theorem onConfig_params (k : Answer) : onConfig Config.params k = k := by
  simp [onConfig, params_syndromesDistinct]

theorem State.legal_iff {s : State} :
    s.legal = true ↔ s.sync.toNat ≤ 4 ∧ s.skip.toNat ≤ 26 ∧ s.last.toNat ≤ 4 ∧ s.cg.toNat ≤ 2 ∧ s.oType.toNat ≤ 4 := by
  simp [State.legal, and_assoc]

/-- In a reachable state `onLegal` goes on with the type whose code LAST holds. -/
theorem onLegal_of_legal {s : State} {last : BlockType} (h : s.legal = true) (hl : s.last = last.code)
    (k : BlockType → Answer) : onLegal s k = k last := by
  simp [onLegal, h, hl]

theorem onLegal_of_not_legal {s : State} (h : s.legal = false) (k : BlockType → Answer) :
    onLegal s k = .refused .unreachableState := by
  simp [onLegal, h]

theorem State.legal_last {s : State} (h : s.legal = true) : ∃ last : BlockType, s.last = last.code :=
  BlockType.exists_code_of_le (State.legal_iff.mp h).2.2.1

/-- Everything `onLegal` can do when it answers a next state. -/
theorem onLegal_next {s t : State} {k : BlockType → Answer} :
    onLegal s k = .next t ↔ s.legal = true ∧ ∃ last : BlockType, s.last = last.code ∧ k last = .next t := by
  by_cases h : s.legal = true
  · obtain ⟨last, hl⟩ := State.legal_last h
    rw [onLegal_of_legal h hl]
    constructor
    · exact fun hk => ⟨h, last, hl, hk⟩
    · rintro ⟨-, last', hl', hk⟩
      rwa [BlockType.code_injective (hl.symm.trans hl')]
  · simp [onLegal, h]

/-! ### Fetch -/

theorem fetch_nil {s : State} (h : s.inputs = []) : fetch s = .error .noSample := by
  simp [fetch, h]

theorem fetch_ok {s : State} {f : Byte} {rest : List Byte} {i : Instr} (h : s.inputs = f :: rest)
    (hd : decodeFrame f = .ok i) : fetch s = .ok (i, { s with inputs := rest }) := by
  simp [fetch, h, decode, hd]

theorem fetch_error {s : State} {f : Byte} {rest : List Byte} {e : DecodeError} (h : s.inputs = f :: rest)
    (hd : decodeFrame f = .error e) : fetch s = .error (.notASample e) := by
  simp [fetch, h, decode, hd]

end Sys2Proof.Machine
end

