-- ==== Sys2Proof/Laws/PerInstr.lean ====
section
/-! SUPPORT. Statements made for each operation as a piece of syntax, one lemma a constructor. -/

namespace Sys2Proof.Laws.OneFrame

/-- Every operation is one sample of one port: no prefixes and no variable length (30_encoding.md R68). -/
def Statement (i : Instr) : Prop := (encode i).length = 1

theorem reset : Statement .reset := rfl
theorem idle : Statement .idle := rfl
theorem sym (b : Bool) : Statement (.sym b) := rfl
theorem read (port : Nat) (sel : Code) : Statement (.read port sel) := rfl

end Sys2Proof.Laws.OneFrame
end

