-- ==== Sys2Proof/Laws/Step.lean ====
section
/-! SUPPORT. Everything an operation can do when it answers a next state: one inversion lemma for each, which an
invariant's proof cites instead of unfolding the machine. -/

namespace Sys2Proof.Machine

/-- The three ends of a SYM (41_synchronizer.md R106): between block tests, hunt mode, a commit. -/
theorem stepSym_cases (p : Params) (last : BlockType) (b : Bool) (s : State) :
    (2 ≤ s.skip.toNat ∧
      stepSym p last b s =
        { s.clearStrobes with sr := shiftIn s.sr b, skip := BitVec.ofNat 5 (s.skip.toNat - 1) }) ∨
    (s.skip.toNat ≤ 1 ∧ known p (syndrome (shiftIn s.sr b)) = false ∧ s.sync.toNat ≤ 1 ∧
      stepSym p last b s = { s.clearStrobes with sr := shiftIn s.sr b, sync := 0#3, skip := 0#5 }) ∨
    (s.skip.toNat ≤ 1 ∧ syncAfter s.sync (known p (syndrome (shiftIn s.sr b))) ≠ 0 ∧
      stepSym p last b s =
        commit p last (shiftIn s.sr b) (syndrome (shiftIn s.sr b))
          (syncAfter s.sync (known p (syndrome (shiftIn s.sr b)))) s) := by
  unfold stepSym skipAfter
  by_cases hk : 0 < s.skip.toNat - 1
  · exact .inl ⟨by omega, by simp [hk]⟩
  · refine .inr ?_
    have hs : s.skip.toNat ≤ 1 := by omega
    by_cases hn : syncAfter s.sync (known p (syndrome (shiftIn s.sr b))) = 0
    · refine .inl ⟨hs, ?_, ?_, by simp [hk, blockTest, hn]⟩
      · by_contra hc
        simp [syncAfter, Config.syncMax, Bool.eq_true_of_not_eq_false hc] at hn
      · unfold syncAfter at hn
        split at hn
        · simp [Config.syncMax] at hn
        · omega
    · exact .inr ⟨hs, hn, by simp [hk, blockTest, hn]⟩

/-- Every SYM shifts its symbol in (R107). -/
@[simp] theorem stepSym_sr (p : Params) (last : BlockType) (b : Bool) (s : State) :
    (stepSym p last b s).sr = shiftIn s.sr b := by
  obtain ⟨-, e⟩ | ⟨-, -, -, e⟩ | ⟨-, -, e⟩ := stepSym_cases p last b s <;> rw [e]
  exact commit_sr ..

/-- SYM reads and writes neither the select wires nor the samples to come. -/
theorem stepSym_env (p : Params) (last : BlockType) (b : Bool) (s : State) (r : List Code) (l : List Byte) :
    stepSym p last b { s with rdSel := r, inputs := l } = { stepSym p last b s with rdSel := r, inputs := l } := by
  unfold stepSym blockTest
  dsimp only
  split
  · rfl
  · split <;> rfl

/-- The confidence counter never leaves 0..4 (R111). -/
theorem syncAfter_le {sync : BitVec 3} (h : sync.toNat ≤ 4) (b : Bool) : syncAfter sync b ≤ 4 := by
  unfold syncAfter Config.syncMax
  split <;> omega

/-- What the continuity update stores is at most 2 (10_state.md R25). -/
theorem cont_cg_le (p : Params) (last : BlockType) (cg : BitVec 2) (t : BlockType) :
    (cont p last cg t).cg.toNat ≤ 2 := by
  unfold cont
  dsimp only
  split
  · decide
  · simp only [BitVec.toNat_ofNat]; omega

theorem resetAt_next {p : Params} {s t : State} :
    resetAt p s = .next t ↔ syndromesDistinct p = true ∧ t = resetRegisters s := by
  simp only [resetAt, onConfig_next, Host.Outcome.next.injEq, eq_comm (a := t)]

theorem idleAt_next {p : Params} {s t : State} :
    idleAt p s = .next t ↔ syndromesDistinct p = true ∧ s.legal = true ∧ t = s.clearStrobes := by
  simp only [idleAt, onConfig_next, onLegal_next, Host.Outcome.next.injEq]
  refine and_congr_right fun _ => ⟨?_, ?_⟩
  · rintro ⟨h, -, -, rfl⟩; exact ⟨h, rfl⟩
  · rintro ⟨h, rfl⟩; exact ⟨h, (State.legal_last h).imp fun _ hl => ⟨hl, rfl⟩⟩

theorem symAt_next {p : Params} {b : Bool} {s t : State} :
    symAt p b s = .next t ↔ syndromesDistinct p = true ∧ s.legal = true ∧
      ∃ last : BlockType, s.last = last.code ∧ t = stepSym p last b s := by
  simp only [symAt, onConfig_next, onLegal_next, Host.Outcome.next.injEq]
  exact and_congr_right fun _ => and_congr_right fun _ => exists_congr fun _ => and_congr_right fun _ => eq_comm

theorem readAt_next {p : Params} {port : Nat} {sel : Code} {s t : State} :
    readAt p port sel s = .next t ↔
      syndromesDistinct p = true ∧ s.legal = true ∧ port < p.nRdPorts ∧ t = driveSel port sel s := by
  simp only [readAt, onConfig_next, onLegal_next]
  refine and_congr_right fun _ => ⟨?_, ?_⟩
  · rintro ⟨h, -, -, hk⟩
    split at hk
    · cases hk; exact ⟨h, ‹_›, rfl⟩
    · cases hk
  · rintro ⟨h, hp, rfl⟩
    exact ⟨h, (State.legal_last h).imp fun _ hl => ⟨hl, by simp [hp]⟩⟩

/-- A READ on a port the block does not have. -/
theorem readAt_absent {p : Params} {port : Nat} {s : State} (hd : syndromesDistinct p = true) (h : s.legal = true)
    (hp : p.nRdPorts ≤ port) (sel : Code) : readAt p port sel s = .refused .absentReadPort := by
  obtain ⟨last, hl⟩ := State.legal_last h
  simp [readAt, onConfig, hd, onLegal_of_legal h hl, Nat.not_lt.mpr hp]

/-! ### The machine of `exec` and `step` is the one built with the default parameters -/

theorem exec_eq_execAt (i : Instr) (s : State) : exec i s = execAt Config.params i s := by
  cases i <;> rfl

theorem step_eq_stepAt (s : State) : step s = stepAt Config.params s := by
  cases h : fetch s <;> simp [step, stepAt, h, exec_eq_execAt]

theorem exec_reset_eq (s : State) : exec .reset s = .next (resetRegisters s) := by
  simp [exec, execReset, resetAt_next, params_syndromesDistinct]

theorem exec_idle_next {s t : State} :
    exec .idle s = .next t ↔ s.legal = true ∧ t = s.clearStrobes := by
  simp [exec, execIdle, idleAt_next, params_syndromesDistinct]

theorem exec_sym_next {b : Bool} {s t : State} :
    exec (.sym b) s = .next t ↔
      s.legal = true ∧ ∃ last : BlockType, s.last = last.code ∧ t = stepSym Config.params last b s := by
  simp [exec, execSym, symAt_next, params_syndromesDistinct]

theorem exec_read_next {port : Nat} {sel : Code} {s t : State} :
    exec (.read port sel) s = .next t ↔
      s.legal = true ∧ port < Config.params.nRdPorts ∧ t = driveSel port sel s := by
  simp [exec, execRead, readAt_next, params_syndromesDistinct]

/-! ### Runs -/

@[simp] theorem countSyms_nil : countSyms [] = 0 := rfl

@[simp] theorem countSyms_sym (b : Bool) (l : List Instr) : countSyms (.sym b :: l) = countSyms l + 1 := rfl

@[simp] theorem countSyms_idle (l : List Instr) : countSyms (.idle :: l) = countSyms l := rfl

@[simp] theorem countSyms_reset (l : List Instr) : countSyms (.reset :: l) = countSyms l := rfl

@[simp] theorem countSyms_read (port : Nat) (sel : Code) (l : List Instr) :
    countSyms (.read port sel :: l) = countSyms l := rfl

/-- A run in two parts, and its commits. -/
theorem runInstrs_append {l : List Instr} {s t : State} (h : runInstrs l s = .next t) (m : List Instr) :
    runInstrs (l ++ m) s = runInstrs m t ∧ commitsOf (l ++ m) s = commitsOf l s ++ commitsOf m t := by
  induction l generalizing s with
  | nil => cases h; exact ⟨rfl, rfl⟩
  | cons i l ih =>
    simp only [runInstrs, List.cons_append, commitsOf] at h ⊢
    cases e : exec i s with
    | next u =>
      rw [e] at h
      obtain ⟨hr, hc⟩ := ih h
      simp only [hr, hc]
      refine ⟨trivial, ?_⟩
      split <;> rfl
    | fault r => rw [e] at h; cases h
    | refused r => rw [e] at h; cases h

/-- Everything a step can do when it answers a next state. -/
theorem step_next {s t : State} (h : step s = .next t) :
    ∃ f rest i, s.inputs = f :: rest ∧ decodeFrame f = .ok i ∧ exec i { s with inputs := rest } = .next t := by
  unfold step at h
  cases hi : s.inputs with
  | nil => simp [fetch_nil hi] at h
  | cons f rest =>
    cases hd : decodeFrame f with
    | error e => simp [fetch_error hi hd] at h
    | ok i => exact ⟨f, rest, i, rfl, hd, by simpa [fetch_ok hi hd] using h⟩

end Sys2Proof.Machine
end

