-- ==== Sys2Proof/Tests/Slice0.lean ====
section
/-! SUPPORT. The model's own tests. Expected values come from spec/95_test_vectors.md and from the encodings written
out in 30_encoding.md; each test names its vector. The witnesses at the end show that the hypotheses of each statement
can be met. -/

namespace Sys2Proof.Tests

open Sys2Proof.Machine

/-- The next state of an answer. -/
def nextOf : Answer → Option State
  | .next s => some s
  | .fault _ => none
  | .refused _ => none

/-- The answer is a next state with the given fields. -/
def nextWith (a : Answer) (f : State → Bool) : Bool := (nextOf a).any f

/-! ### WellFormed: its two checks -/

theorem test_wf_refuses_port_beyond_the_frame : (Instr.read 16 0#3).wf = false := by decide
theorem test_present_refuses_absent_port : (Instr.read 1 0#3).present Config.params = false := by decide
theorem test_wf_takes_reserved_select : (Instr.read 0 7#3).wf = true := by decide

/-! ### Decoding, words from R64 and R67 -/

/-- R64, row `1xx`: RST = 1 with a symbol offered (vector V-X1's command). -/
theorem test_decode_reset : decode [0b00000111#8] = .ok (.reset, []) := by decide
/-- R64, row `00x`: SYM ignored (vector V-X2's command). -/
theorem test_decode_idle : decode [0b00000001#8] = .ok (.idle, []) := by decide
/-- R64, row `010`. -/
theorem test_decode_sym_zero : decode [0b00000010#8, 0b100#8] = .ok (.sym false, [0b100#8]) := by decide
/-- R64, row `011`. -/
theorem test_decode_sym_one : decode [0b00000011#8] = .ok (.sym true, []) := by decide
/-- R67: select 3 is C′; the frame's bit 3 marks the read port. -/
theorem test_decode_read : decode [0b00001011#8] = .ok (.read 0 3#3, []) := by decide
theorem test_decode_refuses_reserved_bits : decode [0b00010010#8] = .error .reservedFrameBits := by decide
theorem test_decode_read_second_port : decode [0b00011000#8] = .ok (.read 1 0#3, []) := by decide
theorem test_decode_refuses_nothing : decode [] = .error .noFrame := by decide
/-- The table's READ row and IDLE row share the word 0; without the port's mark it is the command. -/
theorem test_table_word_zero : decodeTableWord 8 0 = some .idle := by decide

/-! ### The corrector, vectors of 95_test_vectors.md L2 -/

/-- V-Y2 and V-Y12. -/
theorem test_syndrome :
    syndrome 0x3FFFFFF#26 = 0b0110011110#10 ∧ syndrome 0x248D06A#26 = 0b0111011000#10 := by decide +kernel
/-- V-D4 and V-D8. -/
theorem test_detect :
    detect Config.params 0b1111001100#10 = some .cp ∧ detect Config.params 0b1111011001#10 = none := by
  decide +kernel
/-- R164's partial window (log entry 16): the window at the 16th SYM of the A block of payload 0x00FC is the offset
word of A (R75, by hand), which DETECT knows. -/
theorem test_detect_partial_window :
    detect Config.params (syndrome (shiftIn 0x000007E#26 false)) = some .a := by decide +kernel
/-- V-C6: an error in bit 15. V-C8: an error in bit 4. -/
theorem test_correct_single_bits :
    correct Config.params 0x048506A#26 .a = { word := 0x048D096#26, avail := true } ∧
    correct Config.params 0x048D07A#26 .a = { word := 0x048D086#26, avail := false } := by decide +kernel
/-- V-C11: a miscorrected burst of 6. V-C12: recovered with no trap. -/
theorem test_correct_long_bursts :
    correct Config.params 0x048D04F#26 .a = { word := 0x228D0B3#26, avail := true } ∧
    correct Config.params 0x048D38A#26 .a = { word := 0x048D376#26, avail := true } := by decide +kernel
/-- V-C15: a C′ block taken as C. V-C16: the word of ones as A. -/
theorem test_correct_wrong_type :
    correct Config.params 0x048D3C6#26 .c = { word := 0x1D8D2AE#26, avail := true } ∧
    correct Config.params 0x3FFFFFF#26 .a = { word := 0x3FF9703#26, avail := true } := by decide +kernel
/-- V-E4 and V-E10. -/
theorem test_valid_blocks :
    validBlock Config.params .d 0xFFFF#16 = 0x3FFFD79#26 ∧ validBlock Config.params .b 0x0C08#16 = 0x03022B2#26 := by
  decide +kernel
/-- V-K4, V-K7, V-K11 and V-K12. -/
theorem test_continuity :
    cont Config.params .c 2#2 .d = { cg := 0#2, evA := false, evB := false, evG := true } ∧
    cont Config.params .b 1#2 .a = { cg := 0#2, evA := true, evB := true, evG := false } ∧
    cont Config.params .c 2#2 .cp = { cg := 0#2, evA := false, evB := false, evG := false } ∧
    cont Config.params .b 1#2 .b = { cg := 1#2, evA := false, evB := false, evG := false } := by decide
/-- V-S9 and V-S11: the two other values of the parameters. -/
theorem test_continuity_parameters :
    (cont { Config.params with dRequiresFull := true } .cp 0#2 .d).cg = 0#2 ∧
    cont { Config.params with aBreaksContinuity := false } .b 1#2 .a =
      { cg := 1#2, evA := true, evB := false, evG := false } := by decide

/-! ### One step of each operation -/

/-- A state of section L2.5: the registers named there, all else as after RESET. -/
def pre (sr : BlockWord) (sync : BitVec 3) (skip : BitVec 5) (last : Code) (cg : BitVec 2) : State :=
  { State.reset with sr := sr, sync := sync, skip := skip, last := last, cg := cg }

/-- V-S6: a D block with bit 25 in error after a C is guessed C′ and stored unrecoverable. -/
theorem test_sym_guesses_cp_after_c :
    nextWith (step ((pre 0x1828465#26 2#3 1#5 2#3 2#2).withFetchWord 8 0b010)) (fun t =>
      t.sr == 0x30508CA#26 && t.sync == 1#3 && t.skip == 26#5 && t.last == 3#3 && t.cg == 0#2
        && t.slots.cp == { word := 0x3050B9A#26, avail := false } && !t.oKnown && t.oSyn == 0b0001011000#10
        && !t.oEvg) = true := by decide +kernel

/-- V-S10: a block A ends a lone B; both events at once. -/
theorem test_sym_a_after_lone_b :
    nextWith (step ((pre 0x0246835#26 2#3 1#5 1#3 1#2).withFetchWord 8 0b010)) (fun t =>
      t.sr == 0x048D06A#26 && t.sync == 3#3 && t.skip == 26#5 && t.last == 0#3 && t.cg == 0#2
        && t.slots.a == { word := 0x048D096#26, avail := true } && t.oEva && t.oEvb && !t.oEvg) = true := by
  decide +kernel

/-- V-X1: RESET from a state with unreachable values, a symbol offered in the same cycle. -/
theorem test_reset_from_power_up :
    nextOf (step (({ pre 0x2AAAAAA#26 7#3 31#5 6#3 3#2 with oType := 5#3, oEvg := true } : State).withFetchWord 8 0b111))
      = some State.reset := by decide +kernel

/-- R131's example: IDLE keeps SKIP = 5; and it clears the strobes (V-X2). -/
theorem test_idle_keeps_skip :
    (nextOf (step (({ pre 0x0#26 1#3 5#5 0#3 0#2 with oValid := true, oEvg := true } : State).withFetchWord 8 0b001))).map
      (fun t => (t.skip, t.oValid, t.oEvg)) = some (5#5, false, false) := by decide +kernel

/-- V-X3 and V-X4 with slot D written: select 4 reads it, select 3 reads the reset value, select 5 reads zero. -/
theorem test_read_selects :
    let s := State.reset.slotWrite .d { word := 0x105097E#26, avail := true }
    ([4#3, 3#3, 5#3].map fun sel => (nextOf (exec (.read 0 sel) s)).bind (·.readPort Config.params 0)) =
      [some { word := 0x105097E#26, avail := true }, some { word := 0#26, avail := false },
       some { word := 0#26, avail := false }] := by decide +kernel

/-- R50 on a block of three ports: port 2 reads slot D, ports 0 and 1 still show slot A. -/
theorem test_read_third_port :
    let p := { Config.params with nRdPorts := 3 }
    let s := State.reset.slotWrite .d { word := 0x105097E#26, avail := true }
    (nextOf (execAt p (.read 2 4#3) s)).map (fun t => (t.outputs p).rd) =
      some [Slot.reset, Slot.reset, { word := 0x105097E#26, avail := true }] := by decide +kernel

/-- V-X6: the status wires after RESET. -/
theorem test_status_after_reset :
    let o := State.reset.outputs Config.params
    (o.stSync, o.stLocked, o.stSkip, o.stLast, o.stCg) = (0#3, false, 0#5, 0#3, 0#2) := by decide

/-- R78 and P4: `SYMS 1110000011001` is 13 symbols, left to right, and `RST` is the command 100. -/
theorem test_assemble :
    assemble Config.params [.rst, .syms [true, false], .rd 3#3, .idle 2] =
      [0b100#8, 0b011#8, 0b010#8, 0b1011#8, 0#8, 0#8] := by decide
/-- The bit string of bB in L3. -/
theorem test_block_bits :
    (blockBits 0x01021EB#26).map Bool.toNat =
      [0,0,0,0,0,1,0,0,0,0,0,0,1,0,0,0,0,1,1,1,1,0,1,0,1,1] := by decide

/-! ### Witnesses: the hypotheses of the statements can be met -/

/-- Right after a commit: SYNC = 2, SKIP = 26, LAST = C, CG = 2. -/
def locked : State := pre 0x38335E9#26 2#3 26#5 2#3 2#2

theorem witness_legal : locked.legal = true ∧ locked.last = BlockType.code .c ∧ locked.skip = 26#5 := by decide

theorem witness_IdleOnlyClearsStrobes : (pre 0#26 1#3 5#5 0#3 0#2).legal = true ∧ (pre 0#26 1#3 5#5 0#3 0#2).skip = 5#5 := by
  decide

theorem witness_ReadShowsTheSelectedSlot : locked.legal = true ∧ 0 < Config.params.nRdPorts := by decide

theorem witness_ReservedSelectsReadZero : locked.legal = true ∧ 0 < Config.params.nRdPorts ∧ 5 ≤ (5#3 : Code).toNat := by decide

theorem witness_ReadBeforeTheEdgeShowsTheOldSlot :
    ∃ t u, exec (.read 0 (BlockType.code .d)) locked = .next t ∧ exec (.sym true) t = .next u :=
  ⟨_, _, exec_read_next.mpr ⟨by decide, by decide, rfl⟩, exec_sym_next.mpr ⟨by decide, .c, by decide, rfl⟩⟩

theorem witness_AbsentReadPortRefused :
    syndromesDistinct Config.params = true ∧ locked.legal = true ∧ Config.params.nRdPorts ≤ 1 ∧ 1 ≤ 1 :=
  ⟨params_syndromesDistinct, by decide⟩

/-- ReadOnEveryPortOfEveryBuild: the highest port of a block of three, and a SYM after the read. -/
theorem witness_ReadOnEveryPortOfEveryBuild :
    let p := { Config.params with nRdPorts := 3 }
    syndromesDistinct p = true ∧ locked.legal = true ∧ 2 < p.nRdPorts ∧ 0 ≠ 2 ∧ 4#3 = BlockType.code .d ∧
      5 ≤ (5#3 : Code).toNat ∧
      (nextOf (execAt p (.sym true) (driveSel 2 4#3 locked))).isSome = true := by decide +kernel

theorem witness_SymBetweenTests : (pre 0#26 2#3 2#5 4#3 0#2).legal = true ∧ 2 ≤ (pre 0#26 2#3 2#5 4#3 0#2).skip.toNat := by
  decide

/-- V-S3. -/
theorem witness_SymHunts :
    let s := pre 0x0000155#26 1#3 1#5 1#3 1#2
    s.legal = true ∧ s.skip.toNat ≤ 1 ∧ s.sync.toNat ≤ 1 ∧
      known Config.params (syndrome (shiftIn s.sr false)) = false := by decide +kernel

/-- V-S7: a detected D. -/
theorem witness_SymCommits_detected :
    let s := pre 0x0828465#26 1#3 1#5 2#3 2#2
    s.legal = true ∧ s.last = BlockType.code .c ∧ s.skip.toNat ≤ 1 ∧
      detect Config.params (syndrome (shiftIn s.sr false)) = some .d := by decide +kernel

/-- V-S6: a guessed C′. -/
theorem witness_SymCommits_guessed :
    let s := pre 0x1828465#26 2#3 1#5 2#3 2#2
    s.legal = true ∧ s.last = BlockType.code .c ∧ s.skip.toNat ≤ 1 ∧
      known Config.params (syndrome (shiftIn s.sr false)) = false ∧ 2 ≤ s.sync.toNat := by decide +kernel

/-- SyncCountsBlockTests: a test that knows the syndrome, one that does not, and no test. -/
theorem witness_SyncCountsBlockTests :
    known Config.params (syndrome (shiftIn 0x0828465#26 false)) = true ∧
    known Config.params (syndrome (shiftIn 0x1828465#26 false)) = false ∧
    (pre 0x0828465#26 1#3 1#5 2#3 2#2).legal = true ∧ (pre 0x1828465#26 2#3 1#5 2#3 2#2).legal = true ∧
    2 ≤ locked.skip.toNat ∧ Instr.idle.writes = false := by decide +kernel

/-- StrobesLastOneStep: the last SYM between tests, a test that ends in hunt mode at SYNC = 1 (V-S3), one that commits
at SYNC = 2 (V-S6), and one that commits a known syndrome (V-S7). -/
theorem witness_StrobesLastOneStep :
    (pre 0#26 2#3 2#5 4#3 0#2).legal = true ∧ 2 ≤ (2#5).toNat ∧
    (pre 0x0000155#26 1#3 1#5 1#3 1#2).legal = true ∧ (1#5).toNat ≤ 1 ∧ (1#3).toNat ≤ 1 ∧
      known Config.params (syndrome (shiftIn 0x0000155#26 false)) = false ∧
    (pre 0x1828465#26 2#3 1#5 2#3 2#2).legal = true ∧ 2 ≤ (2#3).toNat ∧
    known Config.params (syndrome (shiftIn 0x0828465#26 false)) = true := by decide +kernel

/-- V-S7, a commit with the group event: CommitStoresTheCorrectedBlock, GroupEventWhenTheCountReachesThree. -/
theorem witness_commit_of_d :
    let s := pre 0x0828465#26 1#3 1#5 2#3 2#2
    (nextOf (exec (.sym false) s)).map (fun t => (t.oValid, t.oType)) = some (true, BlockType.code .d) ∧
      s.last = BlockType.code .c ∧ s.cg = 2#2 := by decide +kernel

/-- V-S12, a commit of an A: EventAAtEveryBlockA. -/
theorem witness_EventAAtEveryBlockA :
    (nextOf (exec (.sym false) (pre 0x0246835#26 0#3 0#5 4#3 0#2))).map (fun t => (t.oValid, t.oType, t.oEva)) =
      some (true, BlockType.code .a, true) := by decide +kernel

theorem witness_DetectFindsExactlyTheTableEntries : syndromesDistinct Config.params = true := params_syndromesDistinct

/-- ContinuityRule: each clause, at the boundary values of CG. -/
theorem witness_ContinuityRule :
    (2#2).toNat ≤ 2 ∧
    cont Config.params .b 1#2 .c = { cg := 2#2, evA := false, evB := false, evG := false } ∧
    cont Config.params .cp 0#2 .d = { cg := 1#2, evA := false, evB := false, evG := false } ∧
    cont { Config.params with aBreaksContinuity := false } .d 2#2 .a =
      { cg := 2#2, evA := true, evB := false, evG := false } ∧
    cont Config.params .b 1#2 .d = { cg := 0#2, evA := false, evB := true, evG := false } := by decide

theorem witness_SimultaneousEvents : (cont Config.params .c 2#2 .d).evG = true ∧ (2#2).toNat ≤ 2 := by decide

/-- A machine one symbol before the block test that completes a B with SYNC = 3, after an A. -/
def beforeB : State := pre 0x00810F5#26 3#3 1#5 0#3 0#2

/-- GroupEventNeedsConsecutiveBCD: the blocks B, C and D of L3, the B's last symbol first. -/
theorem witness_GroupEventNeedsConsecutiveBCD :
    beforeB.Inv ∧ beforeB.ContInv ∧
    (nextOf (runInstrs (.sym true :: (symsOf 0x38335E9#26 ++ symsOf 0x10508CA#26)) beforeB)).map (·.oEvg) = some true ∧
    (commitsOf (.sym true :: (symsOf 0x38335E9#26 ++ symsOf 0x10508CA#26)) beforeB).length = 3 := by
  refine ⟨by unfold State.Inv; decide, by unfold State.ContInv; decide, by decide +kernel, by decide +kernel⟩

/-- V-S12: LockAcquisition. -/
theorem witness_LockAcquisition :
    let s := pre 0x0246835#26 0#3 0#5 4#3 0#2
    s.legal = true ∧ s.sync = 0#3 ∧ s.skip = 0#5 ∧ syndrome (shiftIn s.sr false) = synTab Config.params .a := by
  decide +kernel

/-- LossOfLock: the windows of P3b at n = 234 and n = 260 have unknown syndromes. -/
theorem witness_LossOfLock :
    let blocks : List BlockWord := [0x0246835#26, 0x00810F5#26]
    locked.legal = true ∧ locked.last = BlockType.code .c ∧ locked.skip = 26#5 ∧ 1 ≤ blocks.length ∧
      blocks.length = locked.sync.toNat ∧ ∀ w ∈ blocks, known Config.params (syndrome w) = false := by
  refine ⟨by decide, by decide, by decide, by decide, by decide, ?_⟩
  intro w hw
  rcases List.mem_pair.mp hw with rfl | rfl
  · decide +kernel
  · decide +kernel

/-- SlotsStayForTwentyFiveSymbols, at the bound: 25 SYMs with an IDLE and a READ among them. -/
theorem witness_SlotsStayForTwentyFiveSymbols :
    let l := Instr.idle :: .read 0 7#3 :: List.replicate 25 (.sym true)
    locked.legal = true ∧ locked.skip = 26#5 ∧ (∀ i ∈ l, i ≠ .reset ∧ i.present Config.params = true) ∧ countSyms l ≤ 25 := by decide

theorem witness_IdlesAndReadsDoNotMatter :
    locked.legal = true ∧ ∀ i ∈ [Instr.idle, .sym true, .read 0 1#3, .reset],
      i.present Config.params = true := by decide

/-- BurstInTheExpectedBlockIsRepaired: P2's burst, on the C′ that `locked` expects. -/
theorem witness_BurstInTheExpectedBlockIsRepaired :
    IsCorrectableBurst 0x005C000#26 ∧ locked.legal = true ∧ locked.skip = 26#5 ∧ 2 ≤ locked.sync.toNat ∧
      known Config.params (syndrome (validBlock Config.params (succType .c) 0xE0CD#16 ^^^ 0x005C000#26)) = false :=
  ⟨⟨23, 14, by decide⟩, by decide +kernel⟩

/-- BurstsUpToFiveBitsAreCorrected, at both ends: bit 5 alone and bits 25..21. -/
theorem witness_BurstsUpToFiveBitsAreCorrected :
    IsCorrectableBurst 0x0000020#26 ∧ IsCorrectableBurst 0x3E00000#26 :=
  ⟨⟨1, 5, by decide⟩, ⟨31, 21, by decide⟩⟩

theorem witness_LowCheckErrorsAreUnrecoverable : IsLowCheckError 0x1F#26 := by unfold IsLowCheckError; decide

/-- IndistinctSyndromesRefused: the offset of A used for B too. -/
theorem witness_IndistinctSyndromesRefused :
    let p := { Config.params with offset := { Config.defaultOffset with b := 0x0FC#10 } }
    ∃ t u : BlockType, t ≠ u ∧ synTab p t = synTab p u :=
  ⟨.a, .b, by decide, rfl⟩

/-- KnownSyndromeMeansNoRepair: V-E8. -/
theorem witness_KnownSyndromeMeansNoRepair : syndrome 0x048D3C6#26 = synTab Config.params .cp := by decide +kernel

/-- ZeroSyndromeReturnsTheWord: V-C1. -/
theorem witness_ZeroSyndromeReturnsTheWord : syndrome (unoffset Config.params 0x048D06A#26 .a) = 0#10 := by
  decide +kernel

/-- TrapMeansRecovered: a walk that traps (V-C6), and a block that is not recovered (V-C8). -/
theorem witness_TrapMeansRecovered :
    (walkFrom 16 { s := 0b1011011100#10, out := 0#26, found := false }).found = true ∧
      (correct Config.params 0x048D07A#26 .a).avail = false := by decide +kernel

/-- RepairDependsOnTheSyndromeAlone: V-C15 and V-C15b. -/
theorem witness_RepairDependsOnTheSyndromeAlone :
    syndrome (unoffset Config.params 0x048D3C6#26 .c) = syndrome (unoffset Config.params 0x048D1FE#26 .cp) := by
  decide +kernel

theorem witness_DecodeOfEncode :
    (Instr.read 15 7#3).wf = true ∧ decode [0b11111111#8] = .ok (.read 15 7#3, []) := by decide

theorem witness_StepRunsTheDecodedOperation :
    ({ State.reset with inputs := [0b011#8] } : State).inputs = [0b011#8] ∧ decodeFrame 0b011#8 = .ok (.sym true) := by
  decide

theorem witness_StepRunsTheTableWord : decodeTableWord 8 0b100 = some .reset := by decide

theorem witness_StepRefusesWhatIsNoSample :
    State.reset.inputs = [] ∧ (0x10#8).getLsbD 3 = false ∧ 16 ≤ (0x10#8).toNat ∧ (0x18#8).getLsbD 3 = true ∧
      16 ≤ (0x18#8).toNat ∧ State.reset.legal = true := by decide

theorem witness_EveryOperationCompletes :
    (Instr.read 0 7#3).present Config.params = true ∧ locked.legal = true := by decide

/-- EveryConfigurationRunsAndKeepsTheInvariants: other values of three parameters, and a step. -/
theorem witness_EveryConfigurationRunsAndKeepsTheInvariants :
    let p := { Config.params with aBreaksContinuity := false, dRequiresFull := true, nRdPorts := 2 }
    let s : State := { State.reset with inputs := [readFrame 1 4#3] }
    syndromesDistinct p = true ∧ (Instr.read 1 4#3).present p = true ∧ s.legal = true ∧ s.Inv ∧
      (nextOf (stepAt p s)).isSome = true := by
  refine ⟨by decide +kernel, by decide, by decide, by unfold State.Inv; decide, by decide +kernel⟩

/-- UnreachableStatesRefused: each register at its first unreachable value. -/
theorem witness_UnreachableStatesRefused :
    5 ≤ (pre 0#26 5#3 0#5 0#3 0#2).sync.toNat ∧ 27 ≤ (pre 0#26 0#3 27#5 0#3 0#2).skip.toNat ∧
      5 ≤ (pre 0#26 0#3 0#5 5#3 0#2).last.toNat ∧ (pre 0#26 0#3 0#5 0#3 3#2).cg = 3#2 := by decide

/-- StepKeepsTheInvariants, StepKeepsTheContinuityInvariant, StepKeepsTheOutputsPrecise: a step from a state that
meets the three. -/
theorem witness_StepKeepsTheInvariants :
    let s : State := { State.reset with inputs := [0b010#8] }
    s.Inv ∧ s.ContInv ∧ s.OutInv Config.params ∧ (nextOf (step s)).isSome = true := by
  refine ⟨by unfold State.Inv; decide, by unfold State.ContInv; decide, ?_, by decide +kernel⟩
  refine ⟨rfl, rfl, ?_, ?_, ?_, ?_⟩ <;> simp

end Sys2Proof.Tests
end

/-! ## Proofs: every configuration (00_scope.md R8) -/

namespace Sys2Proof.Machine

/-! ### Reachable values: what each operation's next state keeps -/

theorem resetRegisters_inv (s : State) : (resetRegisters s).Inv := by
  simp [State.Inv]

theorem resetRegisters_legal (s : State) : (resetRegisters s).legal = true := rfl

/-- R34's invariants leave no register an unreachable value. -/
theorem State.Inv.legal {s : State} (h : s.Inv) : s.legal = true := by
  obtain ⟨hsync, hzero, hskip, hcg, hlast, htype⟩ := h
  refine State.legal_iff.mpr ⟨hsync, ?_, hlast, hcg, htype⟩
  by_cases h0 : s.sync = 0#3
  · simp [hzero.mp h0]
  · exact (hskip h0).2

/-- A commit at a confidence of 1 to 4 meets R34's invariants, whatever the state before it. -/
theorem commit_inv (p : Params) (last : BlockType) (sr : BlockWord) (syn : Word10) {nsync : Nat}
    (h0 : nsync ≠ 0) (h4 : nsync ≤ 4) (s : State) : (commit p last sr syn nsync s).Inv := by
  have hsync : (BitVec.ofNat 3 nsync).toNat = nsync := by
    rw [BitVec.toNat_ofNat]; omega
  have hne : BitVec.ofNat 3 nsync ≠ 0#3 := fun h => h0 (by simpa [hsync] using congrArg BitVec.toNat h)
  simp only [State.Inv, commit_sync, commit_skip, commit_cg, commit_last, commit_oType]
  exact ⟨hsync.trans_le h4, by simp [hne], fun _ => by decide, cont_cg_le .., BlockType.code_le _,
    BlockType.code_le _⟩

/-- SKIP after a symbol between two block tests (R108). -/
theorem toNat_ofNat_skip_pred (skip : BitVec 5) : (BitVec.ofNat 5 (skip.toNat - 1)).toNat = skip.toNat - 1 := by
  rw [BitVec.toNat_ofNat]; omega

theorem stepSym_legal {s : State} (h : s.legal = true) (p : Params) (last : BlockType) (b : Bool) :
    (stepSym p last b s).legal = true := by
  obtain ⟨hsync, hskip, hlast, hcg, htype⟩ := State.legal_iff.mp h
  obtain ⟨-, e⟩ | ⟨-, -, -, e⟩ | ⟨-, hn, e⟩ := stepSym_cases p last b s <;> rw [e]
  · refine State.legal_iff.mpr ⟨hsync, ?_, hlast, hcg, htype⟩
    rw [toNat_ofNat_skip_pred]; omega
  · exact State.legal_iff.mpr ⟨Nat.zero_le _, Nat.zero_le _, hlast, hcg, htype⟩
  · exact (commit_inv p last _ _ hn (syncAfter_le hsync _) s).legal

theorem stepSym_inv {s : State} (h : s.Inv) (p : Params) (last : BlockType) (b : Bool) :
    (stepSym p last b s).Inv := by
  obtain ⟨hsync, hzero, hskip, hcg, hlast, htype⟩ := h
  obtain ⟨h2, e⟩ | ⟨-, -, -, e⟩ | ⟨-, hn, e⟩ := stepSym_cases p last b s <;> rw [e]
  · have hne : s.sync ≠ 0#3 := fun h0 => by simp [hzero.mp h0] at h2
    have hskip' := toNat_ofNat_skip_pred s.skip
    have hne' : BitVec.ofNat 5 (s.skip.toNat - 1) ≠ 0#5 := fun h0 => by
      rw [h0, BitVec.toNat_zero] at hskip'; omega
    obtain ⟨-, h26⟩ := hskip hne
    exact ⟨hsync, iff_of_false hne hne', fun _ => by dsimp only; omega, hcg, hlast, htype⟩
  · exact ⟨Nat.zero_le _, iff_of_true rfl rfl, fun h0 => absurd rfl h0, hcg, hlast, htype⟩
  · exact commit_inv p last _ _ hn (syncAfter_le hsync _) s

/-! ### Operations and steps under any configuration -/

/-- Every operation a block has answers a next state from every state without unreachable values
(60_exceptions.md R141). -/
theorem execAt_completes {p : Params} {i : Instr} {s : State} (hd : syndromesDistinct p = true)
    (hi : i.present p = true) (hs : s.legal = true) : ∃ t, execAt p i s = .next t ∧ t.legal = true := by
  cases i with
  | reset => exact ⟨_, resetAt_next.mpr ⟨hd, rfl⟩, resetRegisters_legal s⟩
  | idle => exact ⟨_, idleAt_next.mpr ⟨hd, hs, rfl⟩, hs⟩
  | sym b =>
    obtain ⟨last, hl⟩ := State.legal_last hs
    exact ⟨_, symAt_next.mpr ⟨hd, hs, last, hl, rfl⟩, stepSym_legal hs p last b⟩
  | read port sel => exact ⟨_, readAt_next.mpr ⟨hd, hs, of_decide_eq_true hi, rfl⟩, hs⟩

/-- Every operation keeps R34's invariants. -/
theorem execAt_inv {p : Params} {i : Instr} {s t : State} (hs : s.Inv) (h : execAt p i s = .next t) : t.Inv := by
  cases i with
  | reset =>
    obtain ⟨-, rfl⟩ := resetAt_next.mp h
    exact resetRegisters_inv s
  | idle =>
    obtain ⟨-, -, rfl⟩ := idleAt_next.mp h
    exact hs
  | sym b =>
    obtain ⟨-, -, last, -, rfl⟩ := symAt_next.mp h
    exact stepSym_inv hs p last b
  | read port sel =>
    obtain ⟨-, -, -, rfl⟩ := readAt_next.mp h
    exact hs

/-- Everything a step can do when it answers a next state, under any configuration. -/
theorem stepAt_next {p : Params} {s t : State} (h : stepAt p s = .next t) :
    ∃ f rest i, s.inputs = f :: rest ∧ decodeFrame f = .ok i ∧ execAt p i { s with inputs := rest } = .next t := by
  unfold stepAt at h
  cases hi : s.inputs with
  | nil => simp [fetch_nil hi] at h
  | cons f rest =>
    cases hd : decodeFrame f with
    | error e => simp [fetch_error hi hd] at h
    | ok i => exact ⟨f, rest, i, rfl, hd, by simpa [fetch_ok hi hd] using h⟩

/-- Taking a sample changes no register, so the operation starts from a state that meets R34's invariants. -/
theorem stepAt_inv {p : Params} {s t : State} (hs : s.Inv) (h : stepAt p s = .next t) : t.Inv := by
  obtain ⟨f, rest, i, -, -, hx⟩ := stepAt_next h
  exact execAt_inv (s := { s with inputs := rest }) hs hx

/-! ### Ports a block does not have -/

theorem State.readPort_absent {p : Params} {port : Nat} (hp : p.nRdPorts ≤ port) (s : State) :
    s.readPort p port = none :=
  if_neg (Nat.not_lt.mpr hp)

/-! ### The obligations -/

/-- Settles O60: the defaults by the model's equations, completion and the invariants by cases on the operation, with
the three ends of a SYM (R106) for the registers it writes. -/
theorem everyConfigurationRunsAndKeepsTheInvariants : Obligations.EveryConfigurationRunsAndKeepsTheInvariants :=
  ⟨fun i s => ⟨exec_eq_execAt i s, step_eq_stepAt s⟩, fun _ _ _ => execAt_completes, fun _ _ _ => stepAt_inv⟩

/-- Settles O7: READ tests the port only after the checks of the configuration and the state, which the hypotheses
pass. -/
theorem absentReadPortRefused : Obligations.AbsentReadPortRefused :=
  ⟨fun _ s _ sel hd hs hp => ⟨readAt_absent hd hs hp sel, State.readPort_absent hp s⟩,
    fun _ _ sel hs hp => readAt_absent params_syndromesDistinct hs hp sel⟩

end Sys2Proof.Machine

/-! ## Proofs: the state and its reset (10_state.md) -/

namespace Sys2Proof.Machine

/-! ### After RESET: the registers and the invariants -/

/-- The machine starts as if from a RESET with no select driven and no sample pending, so a fact about RESET from every
state is one about the start too. -/
@[simp] theorem resetRegisters_reset : resetRegisters State.reset = State.reset := rfl

/-- RESET empties every slot (R35). -/
@[simp] theorem resetRegisters_slotRead (s : State) (t : BlockType) : (resetRegisters s).slotRead t = Slot.reset :=
  SlotFile.get_reset t

/-- RESET leaves LAST = A with CG = 0, the pair that R117 gives after a commit of an A. -/
theorem resetRegisters_contInv (s : State) : (resetRegisters s).ContInv := by
  unfold State.ContInv
  rw [resetRegisters_last, resetRegisters_cg]
  decide

/-- The commit outputs after RESET describe the empty slot of LAST = A, with KNOWN and every strobe low. -/
theorem resetRegisters_outInv (p : Params) (s : State) : (resetRegisters s).OutInv p := by
  have hslot : (resetRegisters s).readSel (resetRegisters s).last = Slot.reset :=
    (State.readSel_code _ .a).trans (resetRegisters_slotRead s .a)
  exact ⟨rfl, hslot, by simp, by simp, by simp, by simp⟩

/-! ### The obligations -/

/-- Settles O56: after RESET by the reset values, and after a step as the default case of `stepAt_inv`, which goes by
cases on the operation. -/
theorem stepKeepsTheInvariants : Obligations.StepKeepsTheInvariants :=
  ⟨fun s => ⟨_, exec_reset_eq s, resetRegisters_inv s⟩,
    fun s _ hs h => stepAt_inv hs ((step_eq_stepAt s).symm.trans h)⟩

/-- Settles O1: both states are ones that RESET leaves, the second by `resetRegisters_reset`. -/
theorem resetGivesEveryRegisterItsValue : Obligations.ResetGivesEveryRegisterItsValue := by
  intro s
  refine ⟨_, exec_reset_eq s, fun u hu => ?_⟩
  obtain ⟨v, rfl⟩ : ∃ v, u = resetRegisters v :=
    hu.elim (⟨s, ·⟩) (⟨State.reset, ·.trans resetRegisters_reset.symm⟩)
  simp [Slot.reset, BlockType.code]

/-- Settles O8: each wire is its register by definition, and ST_LOCKED is the test that SYNC is not 0. -/
theorem statusWiresShowTheRegisters : Obligations.StatusWiresShowTheRegisters :=
  fun _ _ => ⟨rfl, bne_iff_ne, rfl, rfl, rfl⟩

/-- Settles O50: fetching takes the frame and answers its operation, which the step does. -/
theorem stepRunsTheDecodedOperation : Obligations.StepRunsTheDecodedOperation := by
  intro s f rest i hinputs hdecode
  simp [step, fetch_ok hinputs hdecode]

/-- Settles O55: the reset state is one that RESET leaves. -/
theorem invariantsHoldAtReset : Obligations.InvariantsHoldAtReset := by
  unfold Obligations.InvariantsHoldAtReset
  rw [← resetRegisters_reset]
  exact ⟨resetRegisters_inv _, resetRegisters_contInv _, resetRegisters_outInv _ _⟩

end Sys2Proof.Machine

/-! ## Proofs: the window and the read ports (20_memory.md) -/

namespace Sys2Proof.Machine

/-! ### Commands and the select wires (R50, R55) -/

theorem stepSym_rdSel (p : Params) (last : BlockType) (b : Bool) (s : State) :
    (stepSym p last b s).rdSel = s.rdSel :=
  (congrArg State.rdSel (stepSym_env p last b s s.rdSel s.inputs) :)

theorem stepSym_with_rdSel (p : Params) (last : BlockType) (b : Bool) (s : State) (r : List Code) :
    stepSym p last b { s with rdSel := r } = { stepSym p last b s with rdSel := r } := by
  have hinputs : (stepSym p last b s).inputs = s.inputs :=
    (congrArg State.inputs (stepSym_env p last b s s.rdSel s.inputs) :)
  rw [stepSym_env p last b s r s.inputs, ← hinputs]

/-- A command leaves the select wires of every port to its reader. -/
theorem execAt_command_rdSel {p : Params} {i : Instr} {s t : State} (hi : ∀ q x, i ≠ .read q x)
    (h : execAt p i s = .next t) : t.rdSel = s.rdSel := by
  cases i with
  | reset => obtain ⟨-, rfl⟩ := resetAt_next.mp h; rfl
  | idle => obtain ⟨-, -, rfl⟩ := idleAt_next.mp h; rfl
  | sym b => obtain ⟨-, -, last, -, rfl⟩ := symAt_next.mp h; exact stepSym_rdSel p last b s
  | read q x => exact absurd rfl (hi q x)

/-- A command does the same whatever the select wires carry. -/
theorem execAt_command_with_rdSel {p : Params} {i : Instr} {s t : State} (hi : ∀ q x, i ≠ .read q x)
    (h : execAt p i s = .next t) (r : List Code) :
    execAt p i { s with rdSel := r } = .next { t with rdSel := r } := by
  cases i with
  | reset =>
    obtain ⟨hd, rfl⟩ := resetAt_next.mp h
    exact resetAt_next.mpr ⟨hd, rfl⟩
  | idle =>
    obtain ⟨hd, hs, rfl⟩ := idleAt_next.mp h
    exact idleAt_next.mpr ⟨hd, hs, rfl⟩
  | sym b =>
    obtain ⟨hd, hs, last, hl, rfl⟩ := symAt_next.mp h
    exact symAt_next.mpr ⟨hd, hs, last, hl, (stepSym_with_rdSel p last b s r).symm⟩
  | read q x => exact absurd rfl (hi q x)

/-! ### What a selected port shows (R50, R51) -/

/-- A port shows the slot that its wires select, until its reader moves them. -/
theorem State.readPort_of_rdLevel {p : Params} {port : Nat} {sel : Code} {s : State} (hp : port < p.nRdPorts)
    (h : s.rdLevel port = sel) : s.readPort p port = some (s.readSel sel) := by
  simp [State.readPort, hp, h]

theorem driveSel_readPort_same {p : Params} {port : Nat} (hp : port < p.nRdPorts) (sel : Code) (s : State) :
    (driveSel port sel s).readPort p port = some (s.readSel sel) :=
  State.readPort_of_rdLevel hp (by simp)

theorem driveSel_readPort_other (p : Params) {port other : Nat} (h : other ≠ port) (sel : Code) (s : State) :
    (driveSel port sel s).readPort p other = s.readPort p other := by
  simp [driveSel_readPort, h]

/-- From the next cycle on the port shows the slot as the command left it. -/
theorem readPort_of_command_after_driveSel {p : Params} {port : Nat} {sel : Code} {i : Instr} {s u : State}
    (hp : port < p.nRdPorts) (hi : ∀ q x, i ≠ .read q x) (h : execAt p i (driveSel port sel s) = .next u) :
    u.readPort p port = some (u.readSel sel) := by
  refine State.readPort_of_rdLevel hp ?_
  calc u.rdLevel port = (driveSel port sel s).rdLevel port := by
        rw [State.rdLevel, execAt_command_rdSel hi h, State.rdLevel]
    _ = sel := by simp

/-- A READ before a command changes nothing in what the command does. -/
theorem execAt_command_of_driveSel {p : Params} {port : Nat} {sel : Code} {i : Instr} {s u : State}
    (hi : ∀ q x, i ≠ .read q x) (h : execAt p i (driveSel port sel s) = .next u) :
    ∃ v, execAt p i s = .next v ∧ u = { v with rdSel := (driveSel port sel s).rdSel } := by
  refine ⟨{ u with rdSel := s.rdSel }, execAt_command_with_rdSel hi h s.rdSel, ?_⟩
  rw [← execAt_command_rdSel hi h]

/-! ### The window after a run of SYMs (R46, 41_synchronizer.md R107) -/

theorem runInstrs_cons {i : Instr} {s t : State} (h : exec i s = .next t) (l : List Instr) :
    runInstrs (i :: l) s = runInstrs l t := by
  simp [runInstrs, h]

/-- Every run of SYMs completes from a reachable state, and its symbols enter the window one after the other. -/
theorem runInstrs_syms {s : State} (hs : s.legal = true) (bits : List Bool) :
    ∃ t, runInstrs (bits.map .sym) s = .next t ∧ t.legal = true ∧ t.sr = bits.foldl shiftIn s.sr := by
  induction bits generalizing s with
  | nil => exact ⟨s, rfl, hs, rfl⟩
  | cons b bits ih =>
    obtain ⟨last, hl⟩ := State.legal_last hs
    obtain ⟨t, hrun, hlegal, hsr⟩ := ih (stepSym_legal hs Config.params last b)
    have hstep : exec (.sym b) s = .next (stepSym Config.params last b s) :=
      exec_sym_next.mpr ⟨hs, last, hl, rfl⟩
    exact ⟨t, (runInstrs_cons hstep _).trans hrun, hlegal, by rw [hsr, stepSym_sr, List.foldl_cons]⟩

theorem getLsbD_shiftIn (sr : BlockWord) (b : Bool) {i : Nat} (hi : i < 26) :
    (shiftIn sr b).getLsbD i = if i = 0 then b else sr.getLsbD (i - 1) := by
  cases i with
  | zero => simp [shiftIn]
  | succ i => simp [shiftIn, hi, BitVec.getLsbD_eq_getElem (Nat.lt_of_succ_lt hi)]

/-- The low `n` bits of a word, sent most significant first, are the window's low `n` bits; above them stand the bits it
held before. -/
theorem getLsbD_foldl_shiftIn_bitsFrom (w sr : BlockWord) (n : Nat) {i : Nat} (hi : i < 26) :
    ((bitsFrom w n).foldl shiftIn sr).getLsbD i = if i < n then w.getLsbD i else sr.getLsbD (i - n) := by
  induction n generalizing sr with
  | zero => simp [bitsFrom]
  | succ n ih =>
    rw [bitsFrom, List.foldl_cons, ih, getLsbD_shiftIn _ _ (by omega)]
    obtain h | rfl | h := lt_trichotomy i n
    · simp [h, Nat.lt_succ_of_lt h]
    · simp
    · rw [if_neg (by omega), if_neg (by omega), if_neg (by omega), Nat.sub_sub]

/-- A whole block replaces every bit of the window. -/
theorem foldl_shiftIn_blockBits (w sr : BlockWord) : (blockBits w).foldl shiftIn sr = w :=
  BitVec.eq_of_getLsbD_eq fun _ hi => (getLsbD_foldl_shiftIn_bitsFrom w sr 26 hi).trans (if_pos hi)

/-! ### The obligations -/

/-- Settles O6: a READ moves the select wires only, and a command neither reads nor moves them. -/
theorem readBeforeTheEdgeShowsTheOldSlot : Obligations.ReadBeforeTheEdgeShowsTheOldSlot := by
  intro s t u port ty i hread hi hcmd
  obtain ⟨-, hp, rfl⟩ := exec_read_next.mp hread
  rw [exec_eq_execAt] at hcmd
  have hnew := readPort_of_command_after_driveSel hp hi hcmd
  have hold := driveSel_readPort_same hp ty.code s
  rw [State.readSel_code] at hnew hold
  obtain ⟨v, hv, hu⟩ := execAt_command_of_driveSel hi hcmd
  exact ⟨hold, hnew, v, (exec_eq_execAt i s).trans hv, hu⟩

/-- Settles O28: the run's symbols are shifted in one by one, and 26 of them fill the window. -/
theorem windowHoldsTheLastBlock : Obligations.WindowHoldsTheLastBlock := by
  intro s w hs
  obtain ⟨t, hrun, -, hsr⟩ := runInstrs_syms hs (blockBits w)
  exact ⟨t, hrun, hsr.trans (foldl_shiftIn_blockBits w s.sr)⟩

/-- Settles O59: READ drives its own port's wires, and each port shows the slot that its wires select. -/
theorem readOnEveryPortOfEveryBuild : Obligations.ReadOnEveryPortOfEveryBuild := by
  intro p s port sel hd hs hp
  refine ⟨driveSel port sel s, readAt_next.mpr ⟨hd, hs, hp, rfl⟩, rfl, ?_, ?_,
    fun other hne => driveSel_readPort_other p hne sel s, ?_⟩
  · rintro ty rfl
    rw [driveSel_readPort_same hp, State.readSel_code]
  · intro hres
    rw [driveSel_readPort_same hp, State.readSel_reserved s hres]
  · rintro i u hi hcmd ty rfl
    rw [readPort_of_command_after_driveSel hp hi hcmd, State.readSel_code]

/-- Settles O5: the reserved selects of `readOnEveryPortOfEveryBuild`, under the default parameters. -/
theorem reservedSelectsReadZero : Obligations.ReservedSelectsReadZero := by
  intro s port sel hs hp hres
  obtain ⟨t, hread, -, -, hzero, -⟩ :=
    readOnEveryPortOfEveryBuild Config.params s port sel params_syndromesDistinct hs hp
  exact ⟨t, (exec_eq_execAt _ _).trans hread, hzero hres⟩

end Sys2Proof.Machine

/-! ## Proofs: encodings and the parity-check table (30_encoding.md) -/

namespace Sys2Proof

/-! ### Commands (R64, R65) -/

theorem decodeCommand_eq_reset {c : Cmd} : decodeCommand c = .reset ↔ c.getLsbD 2 = true := by
  unfold decodeCommand cmdRst cmdSymValid
  cases c.getLsbD 2 <;> cases c.getLsbD 1 <;> simp

theorem decodeCommand_eq_idle {c : Cmd} : decodeCommand c = .idle ↔ c.getLsbD 2 = false ∧ c.getLsbD 1 = false := by
  unfold decodeCommand cmdRst cmdSymValid
  cases c.getLsbD 2 <;> cases c.getLsbD 1 <;> simp

theorem decodeCommand_eq_sym {c : Cmd} {b : Bool} :
    decodeCommand c = .sym b ↔ c.getLsbD 2 = false ∧ c.getLsbD 1 = true ∧ c.getLsbD 0 = b := by
  unfold decodeCommand cmdRst cmdSymValid cmdSym
  cases c.getLsbD 2 <;> cases c.getLsbD 1 <;> simp

/-- A command is a word of a table row exactly when it decodes to the row's operation. -/
theorem matchesCmd_iff_decodeCommand (c : Cmd) {r : OpcodeRow} (hr : r ∈ opcodeRows) :
    r.matchesCmd c = true ↔
      (r.mnemonic = "RESET" ∧ decodeCommand c = .reset) ∨ (r.mnemonic = "IDLE" ∧ decodeCommand c = .idle) ∨
      (r.mnemonic = "SYM" ∧ decodeCommand c = .sym (c.getLsbD 0)) := by
  have hreset : (c &&& 0b100#3) = 0b100#3 ↔ c.getLsbD 2 = true := by revert c; decide
  have hidle : (c &&& 0b110#3) = 0b000#3 ↔ c.getLsbD 2 = false ∧ c.getLsbD 1 = false := by revert c; decide
  have hsym : (c &&& 0b110#3) = 0b010#3 ↔ c.getLsbD 2 = false ∧ c.getLsbD 1 = true := by revert c; decide
  rw [decodeCommand_eq_reset, decodeCommand_eq_idle, decodeCommand_eq_sym]
  simp only [opcodeRows, List.mem_cons, List.not_mem_nil, or_false] at hr
  obtain rfl | rfl | rfl := hr
  · simpa [OpcodeRow.matchesCmd] using hreset
  · simpa [OpcodeRow.matchesCmd] using hidle
  · simpa [OpcodeRow.matchesCmd] using hsym

/-! ### Frames (R67, R68) -/

section
variable (port : Nat) (sel : Code)

/-- Select, mark and port number, from bit 0 up. -/
theorem getLsbD_readFrame (i : Nat) :
    (readFrame port sel).getLsbD i =
      if i < 3 then sel.getLsbD i else if i = 3 then true else (BitVec.ofNat 4 port).getLsbD (i - 4) := by
  have happend : (readFrame port sel).getLsbD i =
      if i < 3 then sel.getLsbD i else
        if i - 3 < 1 then (1#1).getLsbD (i - 3) else (BitVec.ofNat 4 port).getLsbD (i - 3 - 1) := by
    rw [← BitVec.getLsbD_append]
    exact BitVec.getLsbD_append
  rw [happend]
  refine ite_congr rfl (fun _ => rfl) fun h3 => ?_
  by_cases h : i = 3
  · simp [h]
  · rw [if_neg (by omega), if_neg h, Nat.sub_sub]

theorem getLsbD_three_readFrame : (readFrame port sel).getLsbD 3 = true := by
  rw [getLsbD_readFrame, if_neg (by decide), if_pos rfl]

theorem extractLsb'_port_readFrame : (readFrame port sel).extractLsb' 4 4 = BitVec.ofNat 4 port := by
  ext i hi
  rw [BitVec.getElem_extractLsb', getLsbD_readFrame, if_neg (by omega), if_neg (by omega), Nat.add_sub_cancel_left,
    BitVec.getLsbD_eq_getElem hi]

theorem extractLsb'_select_readFrame : (readFrame port sel).extractLsb' 0 3 = sel := by
  ext i hi
  simp [getLsbD_readFrame, hi]

end

/-- A read frame gives back its port number, which four bits hold, and its select. -/
theorem decodeFrame_readFrame {port : Nat} (hport : port < 16) (sel : Code) :
    decodeFrame (readFrame port sel) = .ok (.read port sel) := by
  rw [decodeFrame_read (getLsbD_three_readFrame port sel), extractLsb'_port_readFrame, extractLsb'_select_readFrame,
    BitVec.toNat_ofNat, Nat.mod_eq_of_lt hport]

theorem decode_encode {i : Instr} (hi : i.wf = true) (rest : List Byte) :
    decode (encode i ++ rest) = .ok (i, rest) := by
  cases i with
  | reset => exact decode_cons_ok (decodeFrame_command 0b100#3) rest
  | idle => exact decode_cons_ok (decodeFrame_command 0b000#3) rest
  | sym b => cases b <;> exact decode_cons_ok (decodeFrame_command _) rest
  | read port sel => exact decode_cons_ok (decodeFrame_readFrame (of_decide_eq_true hi) sel) rest

/-- Everything a decoded byte string can be: one frame and the bytes after it. -/
theorem decode_eq_ok {bytes rest : List Byte} {i : Instr} (h : decode bytes = .ok (i, rest)) :
    ∃ f, bytes = f :: rest ∧ decodeFrame f = .ok i := by
  cases bytes with
  | nil => cases h
  | cons f tail =>
    cases hf : decodeFrame f with
    | ok j => rw [decode_cons_ok hf] at h; cases h; exact ⟨f, rfl, hf⟩
    | error e => rw [decode_cons_error hf] at h; cases h

/-! ### Table words (R79) -/

/-- A word of eight bits is one frame, and what lies above them is cut off. -/
theorem tableBytes_eight (w : Nat) : tableBytes 8 w = [BitVec.ofNat 8 w] := by
  have hlow : BitVec.ofNat 8 (w % 2 ^ 8) = BitVec.ofNat 8 w := BitVec.eq_of_toNat_eq (by simp)
  simpa [tableBytes] using hlow

theorem decodeTableWord_eq_some {w : Nat} {i : Instr} :
    decodeTableWord 8 w = some i ↔ decodeFrame (BitVec.ofNat 8 w) = .ok i := by
  rw [decodeTableWord, tableBytes_eight]
  cases hf : decodeFrame (BitVec.ofNat 8 w) with
  | ok j => simp [decode_cons_ok hf]
  | error e => simp [decode_cons_error hf]

theorem decodeTableWord_eq_none {w : Nat} :
    decodeTableWord 8 w = none ↔ ∃ e, decodeFrame (BitVec.ofNat 8 w) = .error e := by
  rw [decodeTableWord, tableBytes_eight]
  cases hf : decodeFrame (BitVec.ofNat 8 w) with
  | ok j => simp [decode_cons_ok hf]
  | error e => simp [decode_cons_error hf]

theorem decodeTableWord_toNat_commandFrame (c : Cmd) :
    decodeTableWord 8 (commandFrame c).toNat = some (decodeCommand c) := by
  rw [decodeTableWord_eq_some, BitVec.ofNat_toNat, BitVec.setWidth_eq, decodeFrame_command]

theorem decodeTableWord_toNat_readFrame {port : Nat} (hport : port < 16) (sel : Code) :
    decodeTableWord 8 (readFrame port sel).toNat = some (.read port sel) := by
  rw [decodeTableWord_eq_some, BitVec.ofNat_toNat, BitVec.setWidth_eq, decodeFrame_readFrame hport]

end Sys2Proof

namespace Sys2Proof.Machine

theorem State.withFetchWord_eight (s : State) (w : Nat) :
    s.withFetchWord 8 w = { s with inputs := BitVec.ofNat 8 w :: s.inputs } := by
  rw [State.withFetchWord, tableBytes_eight]
  rfl

/-! ### The syndrome of a single bit (R74, 40_corrector.md R90) -/

/-- A run of zero bits only shifts the syndrome register. -/
theorem syndromeFrom_of_bits_zero {w : BlockWord} {n : Nat} (hw : ∀ i < n, w.getLsbD i = false) (s : Word10) :
    syndromeFrom w n s = lfsrShift^[n] s := by
  induction n generalizing s with
  | zero => rfl
  | succ n ih =>
    have hstep : syndromeStep s (w.getLsbD n) = lfsrShift s := by simp [syndromeStep, hw n n.lt_succ_self]
    rw [syndromeFrom_succ, hstep, ih fun i hi => hw i (Nat.lt_succ_of_lt hi), Function.iterate_succ_apply]

theorem getLsbD_one_shiftLeft {p i : Nat} (hp : p < 26) : (1#26 <<< p).getLsbD i = decide (i = p) := by
  rw [Bool.eq_iff_iff]
  simp
  omega

/-- The zero register stays zero down to the one bit, which taps in the input polynomial; the bits below it shift. -/
theorem syndromeFrom_one_shiftLeft {p n : Nat} (hp : p < n) (hn : n ≤ 26) :
    syndromeFrom (1#26 <<< p) n 0#10 = lfsrShift^[p] Config.inPoly := by
  induction n, hp using Nat.le_induction with
  | base =>
    rw [syndromeFrom_succ, getLsbD_one_shiftLeft hn, decide_eq_true rfl]
    refine syndromeFrom_of_bits_zero (fun i hi => ?_) _
    rw [getLsbD_one_shiftLeft hn, decide_eq_false hi.ne]
  | succ n hpn ih =>
    rw [syndromeFrom_succ, getLsbD_one_shiftLeft (by omega), decide_eq_false (by omega)]
    exact ih (by omega)

theorem syndrome_one_shiftLeft {p : Nat} (hp : p < 26) :
    syndrome (1#26 <<< p) = lfsrShift^[p] Config.inPoly :=
  syndromeFrom_one_shiftLeft hp le_rfl

/-- A single bit meets no feedback until it leaves the register. -/
theorem iterate_lfsrShift_one {k : Nat} (hk : k ≤ 9) : lfsrShift^[k] 1#10 = 1#10 <<< k := by
  induction k with
  | zero => rfl
  | succ k ih =>
    have hmsb : (1#10 <<< k).getLsbD 9 = false := by simp; omega
    rw [Function.iterate_succ_apply', ih (by omega), lfsrShift, hmsb, if_neg Bool.false_ne_true, BitVec.shiftLeft_add]

/-- Sixteen shifts bring the tap of the input polynomial to bit 0 of the register, alone. -/
theorem iterate_lfsrShift_inPoly : lfsrShift^[16] Config.inPoly = 1#10 := by decide +kernel

/-! ### The obligations -/

/-- Settles O49: encode and decode frame by frame, and every decoded frame carries a well-formed operation. -/
theorem decodeOfEncode : Obligations.DecodeOfEncode := by
  refine ⟨fun _ rest hi => decode_encode hi rest, fun bytes rest i h => ?_⟩
  obtain ⟨f, hbytes, hf⟩ := decode_eq_ok h
  exact ⟨decodeFrame_wf hf, f, hbytes⟩

/-- Settles O32: the syndrome of bit `p` is the input polynomial shifted `p` times, which is a single bit from
`p` = 16 on. -/
theorem syndromeOfEachBit : Obligations.SyndromeOfEachBit := by
  constructor
  · intro p h16 h25
    calc syndrome (1#26 <<< p) = lfsrShift^[p - 16 + 16] Config.inPoly := by
          rw [syndrome_one_shiftLeft (by omega), Nat.sub_add_cancel h16]
      _ = 1#10 <<< (p - 16) := by
          rw [Function.iterate_add_apply, iterate_lfsrShift_inPoly, iterate_lfsrShift_one (by omega)]
  · have hshift : ∀ p ∈ List.range 16, syndrome (1#26 <<< p) = lfsrShift^[p] Config.inPoly := fun p hp =>
      syndrome_one_shiftLeft ((List.mem_range.mp hp).trans (by decide))
    rw [List.map_congr_left hshift]
    decide +kernel

/-- Settles O46: a command frame decodes to its command, whose bits RST and SYM_VALID choose the row. -/
theorem commandsDecodeAsTheTableSays : Obligations.CommandsDecodeAsTheTableSays := by
  simp only [Obligations.CommandsDecodeAsTheTableSays, decodeFrame_command, Except.ok.injEq]
  refine ⟨fun lo => decodeCommand_eq_reset.mpr (by revert lo; decide),
    fun x => decodeCommand_eq_idle.mpr (by revert x; decide), decodeCommand_eq_sym.mpr (by decide),
    decodeCommand_eq_sym.mpr (by decide), fun c => ⟨_, rfl, fun r => matchesCmd_iff_decodeCommand c⟩⟩

/-- Settles O47: the operation is read off the three wires, of which `c ^^^ 1` moves SYM alone. -/
theorem commandFieldPriority : Obligations.CommandFieldPriority := by
  refine fun c => ⟨decodeCommand_eq_reset.mpr, fun hrst hvalid => decodeCommand_eq_sym.mpr ⟨hrst, hvalid, rfl⟩,
    fun hrst hvalid => ?_⟩
  have hc : decodeCommand c = .idle := decodeCommand_eq_idle.mpr ⟨hrst, hvalid⟩
  have hflip : decodeCommand (c ^^^ 1#3) = .idle := decodeCommand_eq_idle.mpr (by
    rw [BitVec.getLsbD_xor, BitVec.getLsbD_xor, hrst, hvalid]
    decide)
  exact hc.trans hflip.symm

/-- Settles O48: each word is the command frame or the read frame of its operation, but the last, whose bit 4 no
command sample has. -/
theorem sampleWordsDecode : Obligations.SampleWordsDecode :=
  ⟨decodeTableWord_toNat_commandFrame 0b100#3, decodeTableWord_toNat_commandFrame 0b111#3,
    decodeTableWord_toNat_commandFrame 0b000#3, decodeTableWord_toNat_commandFrame 0b001#3,
    decodeTableWord_toNat_commandFrame 0b010#3, decodeTableWord_toNat_commandFrame 0b011#3,
    decodeTableWord_toNat_readFrame (port := 0) (by decide) 3#3,
    decodeTableWord_toNat_readFrame (port := 0) (by decide) 7#3,
    decodeTableWord_toNat_readFrame (port := 1) (by decide) 0#3,
    decodeTableWord_toNat_readFrame (port := 15) (by decide) 7#3,
    decodeTableWord_eq_none.mpr ⟨.reservedFrameBits, by decide⟩⟩

/-- Settles O51: the word's frame is the first pending sample, and taking it gives the original state back. -/
theorem stepRunsTheTableWord : Obligations.StepRunsTheTableWord := by
  intro s w i hw
  rw [State.withFetchWord_eight]
  exact stepRunsTheDecodedOperation _ _ s.inputs i rfl (decodeTableWord_eq_some.mp hw)

end Sys2Proof.Machine

/-! ## Proofs: the corrector (40_corrector.md) -/

namespace Sys2Proof.Machine

/-! ### The syndrome register is linear (R87) -/

@[simp] theorem lfsrShift_zero : lfsrShift 0#10 = 0#10 := rfl

theorem iterate_lfsrShift_zero (k : Nat) : lfsrShift^[k] 0#10 = 0#10 :=
  Function.iterate_fixed lfsrShift_zero k

theorem iterate_lfsrShift_xor (k : Nat) (s u : Word10) :
    lfsrShift^[k] (s ^^^ u) = lfsrShift^[k] s ^^^ lfsrShift^[k] u := by
  induction k generalizing s u with
  | zero => rfl
  | succ k ih => rw [Function.iterate_succ_apply, lfsrShift_xor, ih]; rfl

/-- The feedback taps bit 0, so no bit that leaves the register is lost. -/
theorem lfsrShift_eq_zero {s : Word10} : lfsrShift s = 0#10 ↔ s = 0#10 := by
  refine ⟨fun h => ?_, fun h => h ▸ lfsrShift_zero⟩
  unfold lfsrShift at h
  split at h
  · have hbit := congrArg (·.getLsbD 0) h
    simp [Config.lfsrPoly] at hbit
  · next hmsb =>
    refine BitVec.eq_of_getLsbD_eq fun i hi => ?_
    obtain rfl | hi9 : i = 9 ∨ i < 9 := by omega
    · simpa using hmsb
    · have hbit := congrArg (·.getLsbD (i + 1)) h
      simpa [show i + 1 < 10 by omega, BitVec.getLsbD_eq_getElem hi] using hbit

theorem iterate_lfsrShift_eq_zero {k : Nat} {s : Word10} : lfsrShift^[k] s = 0#10 ↔ s = 0#10 := by
  induction k generalizing s with
  | zero => rfl
  | succ k ih => rw [Function.iterate_succ_apply, ih, lfsrShift_eq_zero]

theorem syndromeFrom_xor (u v : BlockWord) (n : Nat) (s r : Word10) :
    syndromeFrom (u ^^^ v) n (s ^^^ r) = syndromeFrom u n s ^^^ syndromeFrom v n r := by
  induction n generalizing s r with
  | zero => rfl
  | succ n ih => simp only [syndromeFrom_succ, BitVec.getLsbD_xor, syndromeStep_xor, ih]

theorem syndrome_xor (u v : BlockWord) : syndrome (u ^^^ v) = syndrome u ^^^ syndrome v :=
  syndromeFrom_xor u v Config.blockLen 0#10 0#10

/-! ### The syndrome and the remainder by g(x) (R88, R89) -/

/-- IN_POLY is x^-16 mod g(x): sixteen shifts turn the syndrome's input tap into the remainder's. -/
theorem iterate_lfsrShift_syndromeFrom (w : BlockWord) (n : Nat) (s : Word10) :
    lfsrShift^[16] (syndromeFrom w n s) = polyModFrom w n (lfsrShift^[16] s) := by
  induction n generalizing s with
  | zero => rfl
  | succ n ih =>
    rw [syndromeFrom_succ, ih, polyModFrom]
    congr 1
    have hcomm : lfsrShift^[16] (lfsrShift s) = lfsrShift (lfsrShift^[16] s) :=
      (Function.iterate_succ_apply lfsrShift 16 s).symm.trans (Function.iterate_succ_apply' lfsrShift 16 s)
    cases w.getLsbD n
    · simp [syndromeStep, hcomm]
    · simp only [syndromeStep, if_true, iterate_lfsrShift_xor, hcomm, iterate_lfsrShift_inPoly]
      rfl

theorem iterate_lfsrShift_syndrome (w : BlockWord) : lfsrShift^[16] (syndrome w) = polyMod w := by
  rw [syndrome, iterate_lfsrShift_syndromeFrom, iterate_lfsrShift_zero, polyMod]

theorem syndrome_eq_zero_iff_polyMod {w : BlockWord} : syndrome w = 0#10 ↔ polyMod w = 0#10 := by
  rw [← iterate_lfsrShift_syndrome, iterate_lfsrShift_eq_zero]

theorem polyMod_xor (u v : BlockWord) : polyMod (u ^^^ v) = polyMod u ^^^ polyMod v := by
  simp only [← iterate_lfsrShift_syndrome, syndrome_xor, iterate_lfsrShift_xor]

/-- The bits of a word below x^10 enter the register one by one and meet no feedback. -/
theorem polyModFrom_zext26 (c : Word10) {n : Nat} (hn : n ≤ 26) : polyModFrom (zext26 c) n (c >>> n) = c := by
  induction n with
  | zero => rfl
  | succ n ih =>
    have hstep : lfsrShift (c >>> (n + 1)) ^^^ (BitVec.ofBool ((zext26 c).getLsbD n)).setWidth 10 = c >>> n := by
      have hmsb : (c >>> (n + 1)).getLsbD 9 = false := by simp
      rw [lfsrShift, hmsb, if_neg Bool.false_ne_true]
      refine BitVec.eq_of_getLsbD_eq fun i hi => ?_
      cases i with
      | zero => simp [zext26]; omega
      | succ i => simp [hi, zext26, Nat.add_right_comm n 1 i, Nat.add_assoc]
    rw [polyModFrom, hstep, ih (by omega)]

theorem polyMod_zext26 (c : Word10) : polyMod (zext26 c) = c := by
  have hzero : c >>> 26 = 0#10 := BitVec.ushiftRight_eq_zero (by decide)
  have hmod := polyModFrom_zext26 c le_rfl
  rwa [hzero] at hmod

theorem polyMod_mkBlock (P : Payload) (c : Word10) : polyMod (mkBlock P c) = checkWord P ^^^ c := by
  rw [mkBlock_eq_xor, polyMod_xor, polyMod_zext26, checkWord]

/-- A word is divisible by g(x) exactly if its check field is the check word of its payload. -/
theorem syndrome_mkBlock_eq_zero {P : Payload} {c : Word10} : syndrome (mkBlock P c) = 0#10 ↔ c = checkWord P := by
  rw [syndrome_eq_zero_iff_polyMod, polyMod_mkBlock, BitVec.xor_eq_zero_iff, eq_comm]

/-! ### Offsets touch the check field only (R71, R91) -/

theorem zext26_eq_mkBlock (c : Word10) : zext26 c = mkBlock 0#16 c := by
  have hzero : mkBlock 0#16 0#10 = 0#26 := rfl
  rw [mkBlock_eq_xor, hzero, BitVec.zero_xor]

@[simp] theorem payload_zext26 (c : Word10) : payload (zext26 c) = 0#16 := by
  rw [zext26_eq_mkBlock, payload_mkBlock]

@[simp] theorem checkField_zext26 (c : Word10) : checkField (zext26 c) = c := by
  rw [zext26_eq_mkBlock, checkField_mkBlock]

theorem checkField_xor (a b : BlockWord) : checkField (a ^^^ b) = checkField a ^^^ checkField b := by
  unfold checkField
  ext i hi
  simp

theorem payload_unoffset (p : Params) (w : BlockWord) (ty : BlockType) : payload (unoffset p w ty) = payload w := by
  rw [unoffset, payload_xor, payload_zext26, BitVec.xor_zero]

theorem checkField_unoffset (p : Params) (w : BlockWord) (ty : BlockType) :
    checkField (unoffset p w ty) = checkField w ^^^ offsetOf p ty := by
  rw [unoffset, checkField_xor, checkField_zext26]

/-- Removing the offset of a valid block leaves a codeword (R75). -/
theorem unoffset_validBlock_xor (p : Params) (ty : BlockType) (P : Payload) (e : BlockWord) :
    unoffset p (validBlock p ty P ^^^ e) ty = mkBlock P (checkWord P) ^^^ e := by
  have hvalid : validBlock p ty P = mkBlock P (checkWord P) ^^^ zext26 (offsetOf p ty) := by
    rw [validBlock, mkBlock_eq_xor, zext26_xor, ← BitVec.xor_assoc, ← mkBlock_eq_xor]
  rw [unoffset, hvalid]
  calc mkBlock P (checkWord P) ^^^ zext26 (offsetOf p ty) ^^^ e ^^^ zext26 (offsetOf p ty)
      = mkBlock P (checkWord P) ^^^ e ^^^ (zext26 (offsetOf p ty) ^^^ zext26 (offsetOf p ty)) := by ac_rfl
    _ = mkBlock P (checkWord P) ^^^ e := by rw [BitVec.xor_self, BitVec.xor_zero]

/-- Offset removal takes the type's syndrome out of a word's (R87, R93). -/
theorem syndrome_unoffset (p : Params) (w : BlockWord) (ty : BlockType) :
    syndrome (unoffset p w ty) = syndrome w ^^^ synTab p ty :=
  syndrome_xor w _

theorem syndrome_validBlock (p : Params) (ty : BlockType) (P : Payload) :
    syndrome (validBlock p ty P) = synTab p ty := by
  have hcode : syndrome (unoffset p (validBlock p ty P) ty) = 0#10 := by
    have hclean := unoffset_validBlock_xor p ty P 0#26
    rw [BitVec.xor_zero, BitVec.xor_zero] at hclean
    rw [hclean, syndrome_mkBlock_eq_zero]
  rwa [syndrome_unoffset, BitVec.xor_eq_zero_iff] at hcode

/-! ### The walk: the trap (R96, R99) -/

/-- A step that finds no trap shifts with feedback and repairs nothing. -/
theorem walkStep_of_no_trap {s : Word10} (h : lowZero s = false) (i : Nat) (out : BlockWord) :
    walkStep i { s := s, out := out, found := false } = { s := lfsrShift s, out := out, found := false } := by
  simp [walkStep, h]

/-- As long as no trap is found, step `k` of the walk sees the syndrome shifted `k` times (R96). -/
theorem walkFrom_of_no_trap {s : Word10} {k : Nat} (h : ∀ j < k, lowZero (lfsrShift^[j] s) = false) (n : Nat)
    (out : BlockWord) :
    walkFrom (n + k) { s := s, out := out, found := false } =
      walkFrom n { s := lfsrShift^[k] s, out := out, found := false } := by
  induction k generalizing s with
  | zero => rfl
  | succ k ih =>
    have hs : lowZero s = false := h 0 k.succ_pos
    rw [← Nat.add_assoc, walkFrom_succ, walkStep_of_no_trap hs]
    exact ih fun j hj => h (j + 1) (Nat.succ_lt_succ hj)

/-- The trap latches. -/
theorem walkFrom_found (n : Nat) {x : Walk} (h : x.found = true) : (walkFrom n x).found = true := by
  induction n generalizing x with
  | zero => exact h
  | succ n ih => exact ih (by rw [walkStep_found h])

theorem no_trap_of_not_found {n : Nat} {s : Word10} {out : BlockWord}
    (h : (walkFrom n { s := s, out := out, found := false }).found = false) :
    ∀ j < n, lowZero (lfsrShift^[j] s) = false := by
  induction n generalizing s with
  | zero => exact fun j hj => absurd hj (Nat.not_lt_zero j)
  | succ n ih =>
    have hs : lowZero s = false := by
      by_contra htrap
      rw [walkFrom_succ, walkFrom_found n (by simp [walkStep, htrap])] at h
      cases h
    rw [walkFrom_succ, walkStep_of_no_trap hs] at h
    intro j hj
    cases j with
    | zero => exact hs
    | succ j => exact ih h j (Nat.lt_of_succ_lt_succ hj)

/-- A walk that never traps is the shift with feedback, and repairs nothing. -/
theorem walkFrom_of_not_found {n : Nat} {s : Word10} {out : BlockWord}
    (h : (walkFrom n { s := s, out := out, found := false }).found = false) :
    walkFrom n { s := s, out := out, found := false } = { s := lfsrShift^[n] s, out := out, found := false } := by
  simpa using walkFrom_of_no_trap (no_trap_of_not_found h) 0 out

/-- At the trap the low five bits are zero, and the shifts after it keep them so (R99). -/
theorem walkFrom_trapped {n : Nat} {x : Walk} (h : (walkFrom n x).found = true)
    (hx : x.found = true → lowZero x.s = true) : lowZero (walkFrom n x).s = true := by
  induction n generalizing x with
  | zero => exact hx h
  | succ n ih =>
    refine ih h fun hfound => ?_
    have hlow : lowZero x.s = true := by
      simp only [walkStep, Bool.or_eq_true] at hfound
      exact hfound.elim hx id
    simp [walkStep, hlow, lowZero_shift]

theorem walk_trapped {v : BlockWord} (h : (walk v).found = true) : lowZero (walk v).s = true := by
  by_cases hv : syndrome v = 0#10
  · rw [walk_of_syndrome_zero hv] at h
    cases h
  · rw [walk_of_syndrome_ne_zero hv] at h ⊢
    exact walkFrom_trapped h fun hfalse => absurd hfalse Bool.false_ne_true

/-! ### The walk in numbers

A walk is cheap to evaluate on the register's number, in the functions on `Nat` that Lean computes on numerals; the
facts of R93 and R101 to R103 that go by evaluation are put in these. -/

/-- `lfsrShift` on the register's number (`toNat_lfsrShift`). -/
def regShift (r : Nat) : Nat :=
  bif Nat.ble 512 r then Nat.xor (Nat.mod (Nat.mul 2 r) 1024) 0x1B9 else Nat.mod (Nat.mul 2 r) 1024

theorem toNat_lfsrShift (s : Word10) : (lfsrShift s).toNat = regShift s.toNat := by
  have hmsb : s.getLsbD 9 = Nat.ble 512 s.toNat := by
    calc s.getLsbD 9 = s.msb := rfl
      _ = Nat.ble 512 s.toNat := by rw [BitVec.msb_eq_decide, Bool.eq_iff_iff, decide_eq_true_eq, Nat.ble_eq]
  have hshift : (s <<< 1).toNat = Nat.mod (Nat.mul 2 s.toNat) 1024 := by
    rw [BitVec.toNat_shiftLeft, Nat.shiftLeft_eq, Nat.mul_comm]
    rfl
  rw [lfsrShift, regShift, hmsb, ← hshift]
  cases Nat.ble 512 s.toNat <;> rfl

/-- `syndromeFrom` on the numbers of the word and the register (`toNat_syndromeFrom`). -/
def regSyndrome (w : Nat) : Nat → Nat → Nat
  | 0, r => r
  | n + 1, r => regSyndrome w n (Nat.xor (regShift r) (Nat.mul (Nat.land 1 (Nat.shiftRight w n)) 0x31B))

theorem toNat_syndromeFrom (w : BlockWord) (n : Nat) (s : Word10) :
    (syndromeFrom w n s).toNat = regSyndrome w.toNat n s.toNat := by
  induction n generalizing s with
  | zero => rfl
  | succ n ih =>
    have hbit : Nat.land 1 (Nat.shiftRight w.toNat n) = (w.getLsbD n).toNat := by
      rw [BitVec.getLsbD, Nat.toNat_testBit, ← Nat.shiftRight_eq_div_pow]
      exact Nat.one_and_eq_mod_two _
    have hstep : (syndromeStep s (w.getLsbD n)).toNat =
        Nat.xor (regShift s.toNat) (Nat.mul (w.getLsbD n).toNat 0x31B) := by
      rw [syndromeStep, ← toNat_lfsrShift]
      cases w.getLsbD n
      · exact (Nat.xor_zero _).symm
      · rfl
    rw [syndromeFrom_succ, ih, hstep, ← hbit, regSyndrome]

theorem toNat_syndrome (w : BlockWord) : (syndrome w).toNat = regSyndrome w.toNat 26 0 := by
  rw [syndrome, toNat_syndromeFrom]
  rfl

theorem syndrome_eq_of_number {w : BlockWord} {v : Word10} (h : regSyndrome w.toNat 26 0 = v.toNat) :
    syndrome w = v :=
  BitVec.eq_of_toNat_eq ((toNat_syndrome w).trans h)

theorem lowZero_iff_toNat {s : Word10} : lowZero s = true ↔ s.toNat % 32 = 0 := by
  rw [lowZero, beq_iff_eq, ← BitVec.toNat_inj, BitVec.extractLsb'_toNat]
  rfl

theorem lowZero_eq_beq (s : Word10) : lowZero s = Nat.beq (Nat.mod s.toNat 32) 0 := by
  rw [Bool.eq_iff_iff, lowZero_iff_toNat, Nat.beq_eq]
  rfl

/-- Where a walk of `n` steps stops feeding back: the steps to go at the trap, which are 0 if nothing traps, and the
number of the register there. -/
def stopsAt : Nat → Nat → Nat × Nat
  | 0, r => (0, r)
  | n + 1, r => bif Nat.beq (Nat.mod r 32) 0 then (n + 1, r) else stopsAt n (regShift r)

/-- No step before the stop repairs a bit. -/
theorem walkFrom_eq_stopsAt (n : Nat) (s : Word10) (out : BlockWord) :
    walkFrom n { s := s, out := out, found := false } =
      walkFrom (stopsAt n s.toNat).1 { s := BitVec.ofNat 10 (stopsAt n s.toNat).2, out := out, found := false } := by
  induction n generalizing s with
  | zero => simp [stopsAt]
  | succ n ih =>
    rw [stopsAt, ← lowZero_eq_beq]
    cases hlow : lowZero s with
    | true => simp
    | false =>
      rw [walkFrom_succ, walkStep_of_no_trap hlow, cond_false, ← toNat_lfsrShift]
      exact ih _

theorem stopsAt_trap (n : Nat) (s : Word10) :
    (stopsAt n s.toNat).1 ≤ n ∧
      ((stopsAt n s.toNat).1 ≠ 0 → lowZero (BitVec.ofNat 10 (stopsAt n s.toNat).2) = true) := by
  induction n generalizing s with
  | zero => simp [stopsAt]
  | succ n ih =>
    rw [stopsAt, ← lowZero_eq_beq]
    cases hlow : lowZero s with
    | true => simp [hlow]
    | false =>
      rw [cond_false, ← toNat_lfsrShift]
      exact (ih _).imp_left Nat.le_succ_of_le

theorem walkFrom_trap_found {n : Nat} {s : Word10} {out : BlockWord} (h : n ≠ 0 → lowZero s = true) :
    (walkFrom n { s := s, out := out, found := false }).found = !Nat.beq n 0 := by
  cases n with
  | zero => rfl
  | succ n => exact walkFrom_found n (by simp [walkStep, h n.succ_ne_zero])

theorem found_walkFrom (n : Nat) (s : Word10) (out : BlockWord) :
    (walkFrom n { s := s, out := out, found := false }).found = !Nat.beq (stopsAt n s.toNat).1 0 := by
  obtain ⟨-, htrap⟩ := stopsAt_trap n s
  rw [walkFrom_eq_stopsAt, walkFrom_trap_found htrap]

/-- Where the walk of a word stops feeding back. -/
def walkStop (v : BlockWord) : Nat × Nat := stopsAt 16 (regSyndrome v.toNat 26 0)

theorem walkStop_eq (v : BlockWord) : walkStop v = stopsAt 16 (syndrome v).toNat := by
  rw [walkStop, toNat_syndrome]

/-! ### The walk: what it repairs (R100, R104) -/

/-- A step flips the bit that leaves the register, once the trap is found. -/
theorem walkStep_out (i : Nat) (x : Walk) :
    (walkStep i x).out = x.out ^^^ if (x.found || lowZero x.s) && x.s.getLsbD 9 then 1#26 <<< (i + 10) else 0#26 := by
  simp only [walkStep]
  split
  · rfl
  · exact BitVec.xor_zero.symm

/-- The walk never reads the word it repairs, so an XOR on the word passes through it. -/
theorem walkFrom_xor_out (n : Nat) (x : Walk) (m : BlockWord) :
    walkFrom n { x with out := x.out ^^^ m } = { walkFrom n x with out := (walkFrom n x).out ^^^ m } := by
  induction n generalizing x with
  | zero => rfl
  | succ n ih =>
    have hstep : walkStep n { x with out := x.out ^^^ m } = { walkStep n x with out := (walkStep n x).out ^^^ m } := by
      have hout : (walkStep n { x with out := x.out ^^^ m }).out = (walkStep n x).out ^^^ m := by
        simp only [walkStep_out]
        ac_rfl
      rw [← hout]
      rfl
    rw [walkFrom_succ, hstep, ih, walkFrom_succ]

/-- Two words with one syndrome have one walk: its flag, its final register and its flips are the same (R104). -/
theorem walk_of_syndrome_eq {v w : BlockWord} (h : syndrome v = syndrome w) :
    walk v = { walk w with out := (walk w).out ^^^ (w ^^^ v) } := by
  have hout : w ^^^ (w ^^^ v) = v := by rw [← BitVec.xor_assoc, BitVec.xor_self, BitVec.zero_xor]
  by_cases hw : syndrome w = 0#10
  · simp [walk_of_syndrome_zero (h.trans hw), walk_of_syndrome_zero hw, hout]
  · rw [walk_of_syndrome_ne_zero (h ▸ hw), walk_of_syndrome_ne_zero hw, h]
    have hwalk := walkFrom_xor_out 16 { s := syndrome w, out := w, found := false } (w ^^^ v)
    rwa [hout] at hwalk

/-- Check bits are never repaired: a step's flip is at bit 10 or above. -/
theorem checkField_walkFrom (n : Nat) (x : Walk) : checkField (walkFrom n x).out = checkField x.out := by
  induction n generalizing x with
  | zero => rfl
  | succ n ih =>
    have hflip : checkField (1#26 <<< (n + 10)) = 0#10 := by
      unfold checkField
      ext i hi
      simp
      omega
    rw [walkFrom_succ, ih, walkStep_out, checkField_xor]
    split
    · rw [hflip, BitVec.xor_zero]
    · exact BitVec.xor_zero

theorem checkField_walk (v : BlockWord) : checkField (walk v).out = checkField v := by
  by_cases hv : syndrome v = 0#10
  · rw [walk_of_syndrome_zero hv]
  · rw [walk_of_syndrome_ne_zero hv, checkField_walkFrom]

/-- On a block of the claimed type CORRECT does what the walk does on the error alone. -/
theorem walk_unoffset_validBlock_xor (p : Params) (ty : BlockType) (P : Payload) (e : BlockWord) :
    walk (unoffset p (validBlock p ty P ^^^ e) ty) =
      { walk e with out := (walk e).out ^^^ mkBlock P (checkWord P) } := by
  have hsyn : syndrome (mkBlock P (checkWord P) ^^^ e) = syndrome e := by
    rw [syndrome_xor, syndrome_mkBlock_eq_zero.mpr rfl, BitVec.zero_xor]
  have hxor : e ^^^ (mkBlock P (checkWord P) ^^^ e) = mkBlock P (checkWord P) := by
    rw [BitVec.xor_comm e, BitVec.xor_assoc, BitVec.xor_self, BitVec.xor_zero]
  rw [unoffset_validBlock_xor, walk_of_syndrome_eq hsyn, hxor]

theorem payload_correct_validBlock_xor (p : Params) (ty : BlockType) (P : Payload) (e : BlockWord) :
    payload (correct p (validBlock p ty P ^^^ e) ty).word = payload (walk e).out ^^^ P := by
  rw [correct, walk_unoffset_validBlock_xor]
  exact (payload_xor _ _).trans (by rw [payload_mkBlock])

theorem avail_correct_validBlock_xor (p : Params) (ty : BlockType) (P : Payload) (e : BlockWord) :
    (correct p (validBlock p ty P ^^^ e) ty).avail = lowZero (walk e).s := by
  rw [correct, walk_unoffset_validBlock_xor]

/-! ### The walk on a burst (R100) -/

/-- The 1s of a register lie in five bits from `d` up. -/
def IsBurstAt (s : Word10) (d : Nat) : Prop := ∀ i, s.getLsbD i = true → d ≤ i ∧ i < d + 5

theorem IsBurstAt.shiftLeft {s : Word10} {d : Nat} (h : IsBurstAt s d) (n : Nat) : IsBurstAt (s <<< n) (d + n) := by
  intro i hi
  simp only [BitVec.getLsbD_shiftLeft, Bool.and_eq_true, Bool.not_eq_true', decide_eq_false_iff_not] at hi
  obtain ⟨⟨-, hn⟩, hs⟩ := hi
  have := h _ hs
  omega

theorem IsBurstAt.lowZero_of_le {s : Word10} {d : Nat} (h : IsBurstAt s d) (hd : 5 ≤ d) : lowZero s = true := by
  unfold lowZero Config.trapWidth
  rw [beq_iff_eq]
  ext i hi
  by_contra hbit
  have := h i (by simpa using hbit)
  omega

/-- A step on a burst shifts it out with no feedback: a bit can leave only from a burst that traps. -/
theorem IsBurstAt.walkStep_eq {x : Walk} {d : Nat} (h : IsBurstAt x.s d) (i : Nat) :
    (walkStep i x).s = x.s <<< 1 ∧
      (walkStep i x).out = x.out ^^^ if x.s.getLsbD 9 then 1#26 <<< (i + 10) else 0#26 := by
  rw [walkStep_out]
  cases hmsb : x.s.getLsbD 9 with
  | false =>
    have hshift : lfsrShift x.s = x.s <<< 1 := by rw [lfsrShift, hmsb, if_neg Bool.false_ne_true]
    simp [walkStep, hshift]
  | true =>
    have hlow : lowZero x.s = true := h.lowZero_of_le (by have := h 9 hmsb; omega)
    simp [walkStep, hlow]

theorem getLsbD_zext26_shiftLeft (s : Word10) (n : Nat) {i : Nat} (hi : i < 26) :
    (zext26 s <<< n).getLsbD i = (decide (n ≤ i) && s.getLsbD (i - n)) := by
  rw [BitVec.getLsbD_shiftLeft, zext26, BitVec.getLsbD_setWidth, decide_eq_true hi,
    decide_eq_true ((Nat.sub_le i n).trans_lt hi), Bool.true_and, Bool.true_and, ← decide_not,
    decide_eq_decide.mpr not_lt]

/-- A register over the bits n+10..n+1 of a word is its top bit there and the shifted register one bit lower. -/
theorem zext26_shiftLeft_succ (s : Word10) {n : Nat} (hn : n < 16) :
    zext26 s <<< (n + 1) = (if s.getLsbD 9 then 1#26 <<< (n + 10) else 0#26) ^^^ zext26 (s <<< 1) <<< n := by
  have htop (i : Nat) : (if s.getLsbD 9 then 1#26 <<< (n + 10) else 0#26).getLsbD i =
      (s.getLsbD 9 && decide (i = n + 10)) := by
    cases s.getLsbD 9
    · simp
    · simpa using getLsbD_one_shiftLeft (by omega)
  refine BitVec.eq_of_getLsbD_eq fun i hi => ?_
  rw [BitVec.getLsbD_xor, htop, getLsbD_zext26_shiftLeft _ _ hi, getLsbD_zext26_shiftLeft _ _ hi,
    BitVec.getLsbD_shiftLeft]
  obtain hle | ⟨k, rfl⟩ : i ≤ n ∨ ∃ k, i = n + 1 + k := by
    obtain h | h := Nat.lt_or_ge n i
    · exact .inr ⟨i - (n + 1), by omega⟩
    · exact .inl h
  · simp [show ¬n + 1 ≤ i by omega, show i ≠ n + 10 by omega, show i - n = 0 by omega]
  · have hk : n + 1 + k - n = k + 1 := by omega
    rw [hk]
    obtain hlt | rfl | hgt := lt_trichotomy k 9
    · simp [show k + 1 < 10 by omega, show n + 1 + k ≠ n + 10 by omega, show n ≤ n + 1 + k by omega]
    · simp
    · simp [BitVec.getLsbD_of_ge s k hgt, show n + 1 + k ≠ n + 10 by omega]

/-- A burst in the register, with `n` steps to go, is what the walk removes from the data bits. -/
theorem IsBurstAt.walkFrom_eq {n d : Nat} {x : Walk} (hn : n ≤ 16) (h : IsBurstAt x.s d) :
    (walkFrom n x).s = x.s <<< n ∧
      payload (walkFrom n x).out = payload x.out ^^^ payload (zext26 x.s <<< n) := by
  induction n generalizing x d with
  | zero => simp
  | succ n ih =>
    obtain ⟨hs, hout⟩ := h.walkStep_eq n
    obtain ⟨ihs, ihout⟩ := ih (by omega) (hs ▸ h.shiftLeft 1)
    rw [walkFrom_succ, ihs, ihout, hs, hout, zext26_shiftLeft_succ _ hn, payload_xor, payload_xor, BitVec.xor_assoc,
      ← BitVec.shiftLeft_add, Nat.add_comm 1]
    exact ⟨rfl, rfl⟩

/-- A shift with no bit lost shifts the register once more. -/
theorem syndrome_shiftLeft_one {w : BlockWord} (hw : w.getLsbD 25 = false) :
    syndrome (w <<< 1) = lfsrShift (syndrome w) := by
  have hfrom : ∀ n < 26, ∀ s, syndromeFrom (w <<< 1) (n + 1) s = lfsrShift (syndromeFrom w n s) := by
    intro n
    induction n with
    | zero => intro _ s; simp [syndromeFrom_succ, syndromeStep]
    | succ n ih =>
      intro hn s
      have hbit : (w <<< 1).getLsbD (n + 1) = w.getLsbD n := by
        simp [hn, BitVec.getLsbD_eq_getElem (Nat.lt_of_succ_lt hn)]
      rw [syndromeFrom_succ, hbit, ih (by omega), ← syndromeFrom_succ]
  have hzero : syndromeStep 0#10 (w.getLsbD 25) = 0#10 := by rw [hw]; rfl
  have htop : syndrome w = syndromeFrom w 25 0#10 := by
    rw [syndrome, Config.blockLen, syndromeFrom_succ, hzero]
  rw [htop]
  exact hfrom 25 (by decide) 0#10

theorem syndrome_zext26_shiftLeft (r : Word10) {n : Nat} (hn : n ≤ 16) :
    syndrome (zext26 r <<< n) = lfsrShift^[n] (syndrome (zext26 r)) := by
  induction n with
  | zero => simp
  | succ n ih =>
    have hmsb : (zext26 r <<< n).getLsbD 25 = false := by
      rw [getLsbD_zext26_shiftLeft _ _ (by decide), BitVec.getLsbD_of_ge r _ (by omega), Bool.and_false]
    rw [BitVec.shiftLeft_add, syndrome_shiftLeft_one hmsb, ih (by omega), Function.iterate_succ_apply']

theorem iterate_lfsrShift_syndrome_zext26 (r : Word10) : lfsrShift^[16] (syndrome (zext26 r)) = r := by
  rw [iterate_lfsrShift_syndrome, polyMod_zext26]

/-- The finite fact about g(x): none of the 31 errors in bits 4..0 looks like a burst in the register before sixteen
shifts have brought it back there (R101). -/
theorem stopsAt_lowErrors : ∀ k < 32, k ≠ 0 → (stopsAt 16 (regSyndrome k 26 0)).1 = 0 := by decide

theorem lowError_no_trap {r : Word10} (h0 : r ≠ 0#10) (hr : r.toNat < 32) :
    ∀ j < 16, lowZero (lfsrShift^[j] (syndrome (zext26 r))) = false := by
  have hne : r.toNat ≠ 0 := fun h => h0 (BitVec.eq_of_toNat_eq h)
  have hnat : (zext26 r).toNat = r.toNat := by
    rw [zext26, BitVec.toNat_setWidth]
    omega
  have hfound : (walkFrom 16 { s := syndrome (zext26 r), out := 0#26, found := false }).found = false := by
    rw [found_walkFrom, toNat_syndrome, hnat, stopsAt_lowErrors r.toNat hr hne]
    rfl
  exact no_trap_of_not_found hfound

/-- An error in the ten bits n+9..n of the word comes to stand in the register, bit for bit, with `n` steps to go (R96).
Nothing traps before that: if there is a step before it (`n` < 16) the error is five bits long, and the shifts up to
there are among those that bring it back from bits 4..0. -/
theorem walk_zext26_shiftLeft {r : Word10} {n : Nat} (h0 : r ≠ 0#10) (hn : n ≤ 16) (hr : n = 16 ∨ r.toNat < 32) :
    walk (zext26 r <<< n) = walkFrom n { s := r, out := zext26 r <<< n, found := false } := by
  have hreg : lfsrShift^[16 - n] (syndrome (zext26 r <<< n)) = r := by
    rw [syndrome_zext26_shiftLeft r hn, ← Function.iterate_add_apply, Nat.sub_add_cancel hn,
      iterate_lfsrShift_syndrome_zext26]
  have hne : syndrome (zext26 r <<< n) ≠ 0#10 := fun h => h0 (by rw [← hreg, h, iterate_lfsrShift_zero])
  have hfree : ∀ j < 16 - n, lowZero (lfsrShift^[j] (syndrome (zext26 r <<< n))) = false := by
    intro j hj
    rw [syndrome_zext26_shiftLeft r hn, ← Function.iterate_add_apply]
    exact lowError_no_trap h0 (hr.resolve_left (by omega)) _ (by omega)
  rw [walk_of_syndrome_ne_zero hne]
  have hwalk := walkFrom_of_no_trap hfree n (zext26 r <<< n)
  rwa [Nat.add_sub_cancel' hn, hreg] at hwalk

/-- A correctable burst lies in ten bits n+9..n of the word, at the place where the register will hold it with `n` steps
to go. -/
theorem IsCorrectableBurst.exists_register {e : BlockWord} (he : IsCorrectableBurst e) :
    ∃ (r : Word10) (d n : Nat), e = zext26 r <<< n ∧ r ≠ 0#10 ∧ IsBurstAt r d ∧ 5 ≤ d + n ∧ n ≤ 16 ∧
      (n = 16 ∨ r.toNat < 32) := by
  obtain ⟨pattern, pos, hpos, hlt, h5, hfit, rfl⟩ := he
  obtain ⟨d, n, rfl, hn, hd⟩ : ∃ d n, pos = d + n ∧ n ≤ 16 ∧ (n = 16 ∨ d = 0) := by
    obtain h | h := le_total pos 16
    · exact ⟨0, pos, (Nat.zero_add _).symm, h, .inr rfl⟩
    · exact ⟨pos - 16, 16, (Nat.sub_add_cancel h).symm, le_rfl, .inl rfl⟩
  have hfit10 : pattern <<< d < 2 ^ 10 := by
    obtain rfl | rfl := hd
    · rw [Nat.shiftLeft_add, Nat.shiftLeft_eq _ 16] at hfit
      omega
    · exact hlt.trans (by decide)
  have hword : BitVec.ofNat 26 (pattern <<< (d + n)) = zext26 (BitVec.ofNat 10 (pattern <<< d)) <<< n := by
    refine BitVec.eq_of_toNat_eq ?_
    rw [zext26, BitVec.toNat_shiftLeft, BitVec.toNat_setWidth, BitVec.toNat_ofNat, BitVec.toNat_ofNat,
      Nat.mod_eq_of_lt hfit10, Nat.mod_eq_of_lt (hfit10.trans (by decide)), Nat.shiftLeft_add]
  have hnat : (BitVec.ofNat 10 (pattern <<< d)).toNat = pattern <<< d := by
    rw [BitVec.toNat_ofNat, Nat.mod_eq_of_lt hfit10]
  refine ⟨_, d, n, hword, fun h0 => ?_, fun i hi => ?_, h5, hn, ?_⟩
  · rw [h0, BitVec.toNat_zero, Nat.shiftLeft_eq] at hnat
    have := Nat.mul_pos hpos (Nat.two_pow_pos d)
    omega
  · rw [BitVec.getLsbD, hnat, Nat.testBit_shiftLeft, Bool.and_eq_true, decide_eq_true_eq] at hi
    obtain ⟨hge, hi⟩ := hi
    have hpat := (Nat.ge_two_pow_of_testBit hi).trans_lt hlt
    have := (Nat.pow_lt_pow_iff_right (by decide : 1 < 2)).mp (hpat.trans_eq (by decide : 32 = 2 ^ 5))
    omega
  · rw [hnat]
    exact hd.imp_right fun h => by rw [h]; exact hlt

theorem walk_correctableBurst {e : BlockWord} (he : IsCorrectableBurst e) :
    lowZero (walk e).s = true ∧ payload (walk e).out = 0#16 := by
  obtain ⟨r, d, n, rfl, h0, hr, hd, hn, hlow⟩ := he.exists_register
  obtain ⟨hs, hout⟩ := IsBurstAt.walkFrom_eq (x := { s := r, out := zext26 r <<< n, found := false }) hn hr
  rw [walk_zext26_shiftLeft h0 hn hlow, hs, hout]
  exact ⟨(hr.shiftLeft n).lowZero_of_le hd, BitVec.xor_self⟩

/-! ### CORRECT by the syndrome of the block (R97, R98, R101) -/

theorem correct_of_syndrome_zero {p : Params} {w : BlockWord} {ty : BlockType}
    (h : syndrome (unoffset p w ty) = 0#10) : correct p w ty = { word := unoffset p w ty, avail := true } := by
  rw [correct, walk_of_syndrome_zero h, lowZero_zero]

theorem correct_of_syndrome_eq_synTab {p : Params} {w : BlockWord} {ty : BlockType} (h : syndrome w = synTab p ty) :
    correct p w ty = { word := unoffset p w ty, avail := true } :=
  correct_of_syndrome_zero (by rw [syndrome_unoffset, h, BitVec.xor_self])

theorem correct_validBlock_xor_burst (p : Params) (ty : BlockType) (P : Payload) {e : BlockWord}
    (he : IsCorrectableBurst e) :
    payload (correct p (validBlock p ty P ^^^ e) ty).word = P ∧
      (correct p (validBlock p ty P ^^^ e) ty).avail = true := by
  obtain ⟨havail, hpayload⟩ := walk_correctableBurst he
  rw [payload_correct_validBlock_xor, avail_correct_validBlock_xor, hpayload]
  exact ⟨BitVec.zero_xor, havail⟩

theorem IsLowCheckError.toNat_setWidth {e : BlockWord} (he : IsLowCheckError e) :
    (e.setWidth 10).toNat = e.toNat := by
  have hlt := he.2
  rw [BitVec.toNat_setWidth]
  omega

theorem IsLowCheckError.zext26_setWidth {e : BlockWord} (he : IsLowCheckError e) : zext26 (e.setWidth 10) = e :=
  BitVec.eq_of_toNat_eq (by rw [zext26, BitVec.toNat_setWidth, he.toNat_setWidth, Nat.mod_eq_of_lt e.isLt])

theorem IsLowCheckError.setWidth_ne_zero {e : BlockWord} (he : IsLowCheckError e) : e.setWidth 10 ≠ 0#10 :=
  fun h => he.1 (by rw [← he.zext26_setWidth, h]; rfl)

/-- The walk on an error in bits 4..0 never traps, and its sixteen shifts bring the error back (R101). -/
theorem walk_lowCheckError {e : BlockWord} (he : IsLowCheckError e) :
    walk e = { s := e.setWidth 10, out := e, found := false } := by
  have hwalk := walk_zext26_shiftLeft he.setWidth_ne_zero (Nat.zero_le 16)
    (.inr (he.toNat_setWidth.trans_lt he.2))
  rwa [BitVec.shiftLeft_zero, he.zext26_setWidth, walkFrom_zero] at hwalk

theorem IsLowCheckError.lowZero_eq_false {e : BlockWord} (he : IsLowCheckError e) :
    lowZero (e.setWidth 10) = false := by
  rw [Bool.eq_false_iff, Ne, lowZero_iff_toNat, he.toNat_setWidth, Nat.mod_eq_of_lt he.2]
  exact fun h => he.1 (BitVec.eq_of_toNat_eq h)

/-! ### How the walk ends, from where it stops feeding back -/

theorem isBurstAt_of_lowZero {s : Word10} (h : lowZero s = true) : IsBurstAt s 5 := by
  intro i hi
  have h10 : i < 10 := BitVec.lt_of_getLsbD hi
  refine ⟨?_, h10⟩
  by_contra hlt
  rw [lowZero, beq_iff_eq] at h
  have hbit := congrArg (·.getLsbD i) h
  simp [Config.trapWidth, hi, show i < 5 by omega] at hbit

/-- From a trap on, the register shifts out into the data bits, as on a burst. -/
theorem walkFrom_trap {n : Nat} {s : Word10} {out : BlockWord} (hn : n ≤ 16) (h : n ≠ 0 → lowZero s = true) :
    lowZero (walkFrom n { s := s, out := out, found := false }).s = lowZero s ∧
      payload (walkFrom n { s := s, out := out, found := false }).out = payload out ^^^ payload (zext26 s <<< n) := by
  cases n with
  | zero => simp
  | succ n =>
    have hlow := h n.succ_ne_zero
    have hburst := isBurstAt_of_lowZero hlow
    obtain ⟨hs, hout⟩ := IsBurstAt.walkFrom_eq (x := { s := s, out := out, found := false }) hn hburst
    rw [hs, hlow, (hburst.shiftLeft (n + 1)).lowZero_of_le (Nat.le_add_right 5 _)]
    exact ⟨rfl, hout⟩

theorem lowZero_walkFrom {n : Nat} (hn : n ≤ 16) (s : Word10) (out : BlockWord) :
    lowZero (walkFrom n { s := s, out := out, found := false }).s =
      lowZero (BitVec.ofNat 10 (stopsAt n s.toNat).2) := by
  obtain ⟨hle, htrap⟩ := stopsAt_trap n s
  obtain ⟨hs, -⟩ := walkFrom_trap (out := out) (hle.trans hn) htrap
  rw [walkFrom_eq_stopsAt, hs]

theorem payload_walkFrom {n : Nat} (hn : n ≤ 16) (s : Word10) (out : BlockWord) :
    payload (walkFrom n { s := s, out := out, found := false }).out =
      payload out ^^^ payload (zext26 (BitVec.ofNat 10 (stopsAt n s.toNat).2) <<< (stopsAt n s.toNat).1) := by
  obtain ⟨hle, htrap⟩ := stopsAt_trap n s
  obtain ⟨-, hout⟩ := walkFrom_trap (out := out) (hle.trans hn) htrap
  rw [walkFrom_eq_stopsAt, hout]

/-- The early end of `walk` on a zero syndrome changes neither the register it ends with nor the payload. -/
theorem walk_ends_as_walkFrom (v : BlockWord) :
    lowZero (walk v).s = lowZero (walkFrom 16 { s := syndrome v, out := v, found := false }).s ∧
      payload (walk v).out = payload (walkFrom 16 { s := syndrome v, out := v, found := false }).out := by
  by_cases hv : syndrome v = 0#10
  · obtain ⟨hs, hout⟩ := walkFrom_trap (n := 16) (s := 0#10) (out := v) le_rfl fun _ => lowZero_zero
    have hzero : payload (zext26 0#10 <<< 16) = 0#16 := rfl
    rw [walk_of_syndrome_zero hv, hv, hs, hout, hzero, BitVec.xor_zero]
    exact ⟨rfl, rfl⟩
  · rw [walk_of_syndrome_ne_zero hv]
    exact ⟨rfl, rfl⟩

theorem lowZero_walk (v : BlockWord) : lowZero (walk v).s = lowZero (BitVec.ofNat 10 (walkStop v).2) := by
  obtain ⟨hs, -⟩ := walk_ends_as_walkFrom v
  rw [hs, lowZero_walkFrom le_rfl, walkStop_eq]

theorem payload_walk (v : BlockWord) :
    payload (walk v).out =
      payload v ^^^ payload (zext26 (BitVec.ofNat 10 (walkStop v).2) <<< (walkStop v).1) := by
  obtain ⟨-, hout⟩ := walk_ends_as_walkFrom v
  rw [hout, payload_walkFrom le_rfl, walkStop_eq]

/-! ### Counting walks (R102, R103) -/

/-- A count over a long range as a sum of counts over short ones, which `decide` evaluates. -/
theorem countP_range_mul (f : Nat → Bool) (m n : Nat) :
    (List.range (m * n)).countP f =
      ((List.range m).map fun a => (List.range n).countP fun b => f (a * n + b)).sum := by
  induction m with
  | zero => simp
  | succ m ih =>
    rw [Nat.succ_mul, List.range_add, List.countP_append, ih, List.range_succ]
    simp [List.countP_map, Function.comp_def]

/-- The walks of R103, one for each nonzero syndrome. -/
def syndromeWalks : List Walk :=
  (List.range 1023).map fun n => walkFrom 16 { s := BitVec.ofNat 10 (n + 1), out := 0#26, found := false }

/-- Every walk trapped, or ended recovered with no trap, or ended unrecovered. -/
theorem countP_walk_ends (l : List Walk) :
    l.countP (fun x => x.found && lowZero x.s) + l.countP (fun x => !x.found && lowZero x.s) +
      l.countP (fun x => !lowZero x.s) = l.length := by
  induction l with
  | nil => rfl
  | cons x l ih =>
    simp only [List.countP_cons, List.length_cons]
    cases x.found <;> cases lowZero x.s <;> simp <;> omega

theorem countP_syndromeWalks : syndromeWalks.countP (fun x => x.found && lowZero x.s) = 271 ∧
    syndromeWalks.countP (fun x => !x.found && lowZero x.s) = 16 := by
  rw [syndromeWalks, show 1023 = 31 * 33 from rfl]
  simp only [List.countP_map, Function.comp_def, found_walkFrom, lowZero_walkFrom le_rfl, BitVec.toNat_ofNat,
    countP_range_mul]
  decide

theorem countP_syndromeWalks_unrecovered : syndromeWalks.countP (fun x => !lowZero x.s) = 736 := by
  have hends := countP_walk_ends syndromeWalks
  have hlength : syndromeWalks.length = 1023 := by simp [syndromeWalks]
  obtain ⟨htrapped, hrecovered⟩ := countP_syndromeWalks
  rw [htrapped, hrecovered, hlength] at hends
  omega

theorem syndromeWalks_out {x : Walk} (hx : x ∈ syndromeWalks) (hfound : x.found = false) : x.out = 0#26 := by
  obtain ⟨n, -, rfl⟩ := List.mem_map.mp hx
  rw [walkFrom_of_not_found hfound]

/-! ### Type syndromes and DETECT (R93, R94) -/

theorem synTab_injective {p : Params} (h : syndromesDistinct p = true) : Function.Injective (synTab p) := by
  intro t u htu
  have hnodup : ([.a, .b, .c, .cp, .d].map (synTab p)).Nodup := of_decide_eq_true h
  have hmem (ty : BlockType) : ty ∈ [BlockType.a, .b, .c, .cp, .d] := by cases ty <;> decide
  exact List.inj_on_of_nodup_map hnodup (hmem t) (hmem u) htu

theorem detect_synTab {p : Params} (h : syndromesDistinct p = true) (ty : BlockType) :
    detect p (synTab p ty) = some ty := by
  cases hd : detect p (synTab p ty) with
  | none => exact absurd rfl ((known_eq_false_iff (p := p)).mp (by simp [known, hd]) ty)
  | some t => rw [synTab_injective h (detect_some hd)]

theorem onConfig_of_not_distinct {p : Params} (h : syndromesDistinct p = false) (k : Answer) :
    onConfig p k = .refused .indistinctSyndromes := by
  simp [onConfig, h]

/-! ### A block received from SKIP = 26 (41_synchronizer.md R108 to R116) -/

/-- The slot of the committed type, named by what `commitType` gives. -/
theorem commit_slotRead_of_type {p : Params} {last ty : BlockType} {syn : Word10} (h : commitType p last syn = ty)
    (sr : BlockWord) (n : Nat) (s : State) : (commit p last sr syn n s).slotRead ty = correct p sr ty := by
  rw [← h, commit_slotRead_same]

theorem stepSym_between {s : State} (h : 2 ≤ s.skip.toNat) (p : Params) (last : BlockType) (b : Bool) :
    stepSym p last b s =
      { s.clearStrobes with sr := shiftIn s.sr b, skip := BitVec.ofNat 5 (s.skip.toNat - 1) } :=
  if_pos (show 0 < s.skip.toNat - 1 by omega)

theorem stepSym_test {s : State} (h : s.skip.toNat ≤ 1) (p : Params) (last : BlockType) (b : Bool) :
    stepSym p last b s = blockTest p last (shiftIn s.sr b) s :=
  if_neg (show ¬0 < s.skip.toNat - 1 by omega)

/-- A block test takes its window as an argument and writes SKIP and the strobes itself, whatever they held. -/
theorem blockTest_of_between (p : Params) (last : BlockType) (w : BlockWord) (s : State) (sr : BlockWord)
    (skip : BitVec 5) :
    blockTest p last w { s.clearStrobes with sr := sr, skip := skip } = blockTest p last w s := by
  unfold blockTest
  exact ite_congr rfl (fun _ => rfl) fun _ => rfl

/-- As many SYMs as SKIP counts are one block test, of the window with all of them shifted in. -/
theorem runInstrs_syms_to_test {s : State} {last : BlockType} {bits : List Bool} (hs : s.legal = true)
    (hl : s.last = last.code) (hskip : s.skip.toNat = bits.length) (h0 : bits ≠ []) :
    runInstrs (bits.map .sym) s = .next (blockTest Config.params last (bits.foldl shiftIn s.sr) s) := by
  induction bits generalizing s with
  | nil => exact absurd rfl h0
  | cons b bits ih =>
    rw [List.map_cons, runInstrs_cons (exec_sym_next.mpr ⟨hs, last, hl, rfl⟩)]
    rw [List.length_cons] at hskip
    by_cases hbits : bits = []
    · subst hbits
      rw [stepSym_test hskip.le]
      rfl
    · have hlen := List.length_pos_iff.mpr hbits
      have hlegal := stepSym_legal hs Config.params last b
      rw [stepSym_between (by omega)] at hlegal ⊢
      have hskip' : (BitVec.ofNat 5 (s.skip.toNat - 1)).toNat = bits.length := by
        rw [toNat_ofNat_skip_pred]; omega
      rw [ih hlegal hl hskip' hbits, blockTest_of_between, List.foldl_cons]

theorem runInstrs_symsOf {s : State} {last : BlockType} (hs : s.legal = true) (hl : s.last = last.code)
    (hskip : s.skip = 26#5) (w : BlockWord) :
    runInstrs (symsOf w) s = .next (blockTest Config.params last w s) := by
  have hlen : s.skip.toNat = (blockBits w).length := by rw [hskip]; rfl
  rw [symsOf, runInstrs_syms_to_test hs hl hlen (List.cons_ne_nil _ _), foldl_shiftIn_blockBits]

/-- A test of a known syndrome commits with its type. -/
theorem blockTest_of_detect {p : Params} {w : BlockWord} {ty : BlockType} (h : detect p (syndrome w) = some ty)
    (last : BlockType) (s : State) :
    blockTest p last w s = commit p last w (syndrome w) (min (s.sync.toNat + 1) 4) s := by
  have hknown : known p (syndrome w) = true := by simp [known, h]
  have hsync : syncAfter s.sync true = min (s.sync.toNat + 1) 4 := rfl
  simp only [blockTest, hknown, hsync]
  exact if_neg (by omega)

/-- A test of an unknown syndrome commits a guess while some confidence is left. -/
theorem blockTest_of_unknown {p : Params} {w : BlockWord} (h : known p (syndrome w) = false) {s : State}
    (hsync : 2 ≤ s.sync.toNat) (last : BlockType) :
    blockTest p last w s = commit p last w (syndrome w) (s.sync.toNat - 1) s := by
  have hafter : syncAfter s.sync false = s.sync.toNat - 1 := rfl
  simp only [blockTest, h, hafter]
  exact if_neg (by omega)

/-! ### The obligations -/

/-- Settles O29: the 26 SYMs are one block test (`runInstrs_symsOf`), which detects the type and finds nothing to
repair. -/
theorem validBlockIsCommitted : Obligations.ValidBlockIsCommitted := by
  intro s ty P hs hskip
  obtain ⟨last, hl⟩ := State.legal_last hs
  have hsyn := syndrome_validBlock Config.params ty P
  have hdetect : detect Config.params (syndrome (validBlock Config.params ty P)) = some ty := by
    rw [hsyn, detect_synTab params_syndromesDistinct]
  have htype := commitType_known (last := last) hdetect
  have hrun : runInstrs (symsOf (validBlock Config.params ty P)) s =
      .next (commit Config.params last (validBlock Config.params ty P) (syndrome (validBlock Config.params ty P))
        (min (s.sync.toNat + 1) 4) s) := by
    rw [runInstrs_symsOf hs hl hskip, blockTest_of_detect hdetect]
  refine ⟨_, hrun, commit_oValid .., ?_, ?_, ?_, ?_, ?_, commit_skip .., fun other hne => ?_⟩
  · rw [commit_oKnown, known, hdetect]; rfl
  · rw [commit_oType, htype]
  · rw [commit_slotRead_of_type htype, correct_of_syndrome_eq_synTab hsyn, payload_unoffset, validBlock,
      payload_mkBlock]
  · rw [commit_slotRead_of_type htype, correct_of_syndrome_eq_synTab hsyn]
  · rw [commit_sync, BitVec.toNat_ofNat]; omega
  · exact commit_slotRead_other _ _ _ _ _ _ (htype.symm ▸ hne)

/-- Settles O30: the block test guesses the expected type, for which CORRECT removes the burst. -/
theorem burstInTheExpectedBlockIsRepaired : Obligations.BurstInTheExpectedBlockIsRepaired := by
  intro s last P e hs hl hskip hsync he hknown
  have htype := commitType_guess (last := last) hknown
  obtain ⟨hpayload, havail⟩ := correct_validBlock_xor_burst Config.params (succType last) P he
  have hrun : runInstrs (symsOf (validBlock Config.params (succType last) P ^^^ e)) s =
      .next (commit Config.params last (validBlock Config.params (succType last) P ^^^ e)
        (syndrome (validBlock Config.params (succType last) P ^^^ e)) (s.sync.toNat - 1) s) := by
    rw [runInstrs_symsOf hs hl hskip, blockTest_of_unknown hknown hsync]
  refine ⟨_, hrun, commit_oValid .., (commit_oKnown ..).trans hknown, ?_, ?_, ?_, ?_⟩
  · rw [commit_oType, htype]
  · rw [commit_slotRead_of_type htype, hpayload]
  · rw [commit_slotRead_of_type htype, havail]
  · rw [commit_sync, BitVec.toNat_ofNat]; omega

/-- Settles O31: the bit steps are linear, by induction over the bits. -/
theorem syndromeIsLinear : Obligations.SyndromeIsLinear := syndrome_xor

/-- Settles O33: sixteen shifts turn the syndrome into the remainder (`iterate_lfsrShift_syndrome`), which is the check
word of the payload XORed with the check field. -/
theorem syndromeZeroIffCodeword : Obligations.SyndromeZeroIffCodeword := by
  refine fun w => ⟨syndrome_eq_zero_iff_polyMod, ?_⟩
  have hw := mkBlock_payload_checkField w
  calc syndrome w = 0#10 ↔ checkField w = checkWord (payload w) := by rw [← syndrome_mkBlock_eq_zero, hw]
    _ ↔ w = mkBlock (payload w) (checkWord (payload w)) := by
      refine ⟨fun h => by rw [← h, hw], fun h => ?_⟩
      rw [h, checkField_mkBlock, payload_mkBlock]

/-- Settles O34: a zero-extended offset has no payload bit. -/
theorem offsetTouchesTheCheckFieldOnly : Obligations.OffsetTouchesTheCheckFieldOnly :=
  fun p w ty => ⟨payload_unoffset p w ty, checkField_unoffset p w ty⟩

/-- Settles O35: a valid block is a codeword XORed with the offset. -/
theorem validBlockHasItsTypesSyndrome : Obligations.ValidBlockHasItsTypesSyndrome := syndrome_validBlock

/-- Settles O38: with its type's offset removed the block has syndrome 0, so the walk does not run. -/
theorem knownSyndromeMeansNoRepair : Obligations.KnownSyndromeMeansNoRepair :=
  fun _ _ _ => correct_of_syndrome_eq_synTab

/-- Settles O39: at syndrome 0 the walk does not run. -/
theorem zeroSyndromeReturnsTheWord : Obligations.ZeroSyndromeReturnsTheWord :=
  fun _ _ _ => correct_of_syndrome_zero

/-- Settles O40: the low five bits are zero at the trap and every shift after it keeps them so. -/
theorem trapMeansRecovered : Obligations.TrapMeansRecovered := by
  refine ⟨fun _ _ => walkFrom_trapped, fun p w ty havail => ⟨?_, havail⟩⟩
  by_contra hfound
  exact Bool.false_ne_true (havail.symm.trans (walk_trapped (Bool.eq_true_of_not_eq_false hfound)))

/-- Settles O41: by linearity the walk runs on the burst alone, which traps nowhere before the register holds it above
its low five bits (`walk_correctableBurst`); flips reach only bits from 10 up. -/
theorem burstsUpToFiveBitsAreCorrected : Obligations.BurstsUpToFiveBitsAreCorrected :=
  ⟨fun p ty P _ => correct_validBlock_xor_burst p ty P, fun p w ty => checkField_walk (unoffset p w ty)⟩

/-- Settles O42: by linearity the walk runs on the error alone (`walk_lowCheckError`). -/
theorem lowCheckErrorsAreUnrecoverable : Obligations.LowCheckErrorsAreUnrecoverable := by
  intro p ty P e he
  have hpayload : payload e = 0#16 := by rw [← he.zext26_setWidth, payload_zext26]
  rw [avail_correct_validBlock_xor, payload_correct_validBlock_xor, walk_unoffset_validBlock_xor,
    walk_lowCheckError he, hpayload]
  exact ⟨he.lowZero_eq_false, BitVec.zero_xor, rfl, rfl⟩

/-- Settles O45: two words of one syndrome have one walk up to an XOR on the word (`walk_of_syndrome_eq`). -/
theorem repairDependsOnTheSyndromeAlone : Obligations.RepairDependsOnTheSyndromeAlone := by
  intro p q v w t u h
  simp only [correct, walk_of_syndrome_eq h]
  refine ⟨?_, trivial⟩
  rw [BitVec.xor_assoc, BitVec.xor_assoc, BitVec.xor_self, BitVec.xor_zero]

/-- Settles O36: the five values by evaluation; that they are distinct is the check the default configuration passes. -/
theorem defaultTypeSyndromes : Obligations.DefaultTypeSyndromes := by
  have htable : synTabs Config.params = [0x3D8#10, 0x3D4#10, 0x25C#10, 0x3CC#10, 0x258#10] := by
    simp only [synTabs, synTab, List.cons.injEq, and_true]
    exact ⟨syndrome_eq_of_number (by decide), syndrome_eq_of_number (by decide), syndrome_eq_of_number (by decide),
      syndrome_eq_of_number (by decide), syndrome_eq_of_number (by decide)⟩
  exact ⟨htable, of_decide_eq_true params_syndromesDistinct, by rw [htable]; decide⟩

/-- Settles O37: every operation asks first that the type syndromes are distinct. -/
theorem indistinctSyndromesRefused : Obligations.IndistinctSyndromesRefused := by
  rintro p s b port sel ⟨t, u, htu, heq⟩
  have hd : syndromesDistinct p = false :=
    Bool.eq_false_iff.mpr fun h => htu (synTab_injective h heq)
  exact ⟨onConfig_of_not_distinct hd _, onConfig_of_not_distinct hd _, onConfig_of_not_distinct hd _,
    onConfig_of_not_distinct hd _⟩

/-- Settles O43: CORRECT does on the block what the walk does on the error, and the 336 walks are evaluated. -/
theorem someLongBurstsAreMiscorrected : Obligations.SomeLongBurstsAreMiscorrected := by
  rw [Obligations.SomeLongBurstsAreMiscorrected, show 336 = 21 * 16 from rfl]
  simp only [payload_correct_validBlock_xor, avail_correct_validBlock_xor, lowZero_walk, payload_walk,
    countP_range_mul]
  decide

/-- Settles O44: two of the three classes are counted by evaluation, the third is what remains of the 1023; a walk that
never traps flips nothing, whatever its syndrome. -/
theorem outcomesOverAllSyndromes : Obligations.OutcomesOverAllSyndromes := by
  obtain ⟨htrapped, hrecovered⟩ := countP_syndromeWalks
  refine ⟨htrapped, hrecovered, countP_syndromeWalks_unrecovered, List.all_eq_true.mpr fun x hx => ?_⟩
  obtain ⟨hmem, hend⟩ := List.mem_filter.mp hx
  rw [Bool.and_eq_true, Bool.not_eq_true'] at hend
  obtain ⟨hfound, -⟩ := hend
  exact beq_iff_eq.mpr (syndromeWalks_out hmem hfound)

end Sys2Proof.Machine

/-! ## Proofs: the synchronizer (41_synchronizer.md) -/

namespace Sys2Proof.Machine

/-! ### The continuity update, arm by arm (R117) -/

section
variable {p : Params} {last t : BlockType} {cg : BitVec 2}

/-- An adjacency that counts one up: a stored 2 becomes a complete group, which is stored as 0. -/
theorem cont_of_contCount_succ (hcg : cg.toNat ≤ 2) (h : contCount p last cg t = (cg.toNat + 1, false)) :
    cont p last cg t =
      { cg := if cg = 2#2 then 0#2 else cg + 1#2, evA := t == .a, evB := false, evG := cg == 2#2 } := by
  unfold cont
  rw [h]
  by_cases h2 : cg = 2#2
  · simp [h2]
  · have hne : cg.toNat ≠ 2 := fun hn => h2 (BitVec.eq_of_toNat_eq hn)
    have hlt : ¬3 ≤ cg.toNat + 1 := by omega
    simp [hlt, h2, BitVec.ofNat_add]

theorem cont_b (p : Params) (last : BlockType) (cg : BitVec 2) :
    cont p last cg .b = { cg := 1#2, evA := false, evB := false, evG := false } := rfl

theorem cont_after_b (hcg : cg.toNat ≤ 2) (ht : t = .c ∨ t = .cp) :
    cont p .b cg t = { cg := if cg = 2#2 then 0#2 else cg + 1#2, evA := false, evB := false, evG := cg == 2#2 } := by
  obtain rfl | rfl := ht <;> exact cont_of_contCount_succ hcg (by simp [contCount])

theorem cont_d (hcg : cg.toNat ≤ 2) (hlast : last = .c ∨ last = .cp) (hfull : p.dRequiresFull = false ∨ cg = 2#2) :
    cont p last cg .d =
      { cg := if cg = 2#2 then 0#2 else cg + 1#2, evA := false, evB := false, evG := cg == 2#2 } :=
  cont_of_contCount_succ hcg (by simp [contCount, hlast, hfull])

theorem cont_exempt_a (hcg : cg.toNat ≤ 2) (ha : p.aBreaksContinuity = false) :
    cont p last cg .a = { cg := cg, evA := true, evB := false, evG := false } := by
  have hlt : ¬3 ≤ cg.toNat := by omega
  simp [cont, contCount, ha, hlt]

/-- An adjacency that none of the other arms takes. -/
theorem cont_break (hb : t ≠ .b) (hc : ¬((t = .c ∨ t = .cp) ∧ last = .b))
    (hd : ¬(t = .d ∧ (last = .c ∨ last = .cp) ∧ (p.dRequiresFull = false ∨ cg = 2#2)))
    (ha : ¬(t = .a ∧ p.aBreaksContinuity = false)) :
    cont p last cg t = { cg := 0#2, evA := t == .a, evB := cg == 1#2, evG := false } := by
  have hcount : contCount p last cg t = (0, cg == 1#2) := by
    rw [contCount, if_neg hb, if_neg hc, if_neg hd, if_neg ha]
  unfold cont
  rw [hcount]
  rfl

end

/-! ### What CG can be after each type (R117, R120) -/

/-- The values of CG that the last committed type can leave under the default parameters: `State.ContInv` for a type
instead of a code (`State.contInv_iff`). -/
inductive CgAfter : BlockType → BitVec 2 → Prop where
  | zero {last : BlockType} (h : last ≠ .b) : CgAfter last 0#2
  | b : CgAfter .b 1#2
  | c : CgAfter .c 2#2
  | cp : CgAfter .cp 2#2
  | d : CgAfter .d 1#2

theorem State.contInv_iff {s : State} {last : BlockType} (hl : s.last = last.code) :
    s.ContInv ↔ CgAfter last s.cg := by
  unfold State.ContInv
  rw [hl]
  generalize s.cg = cg
  constructor
  · rintro ⟨ha, hb, hc, hd⟩
    cases last with
    | a => exact ha rfl ▸ .zero (by decide)
    | b => exact hb rfl ▸ .b
    | c => obtain rfl | rfl := hc (.inl rfl); exacts [.zero (by decide), .c]
    | cp => obtain rfl | rfl := hc (.inr rfl); exacts [.zero (by decide), .cp]
    | d => obtain rfl | rfl := hd rfl; exacts [.zero (by decide), .d]
  · intro h
    cases h with
    | zero hne => simp [hne]
    | _ => decide

theorem CgAfter.eq_one {cg : BitVec 2} (h : CgAfter .b cg) : cg = 1#2 := by
  cases h with
  | zero hne => exact absurd rfl hne
  | b => rfl

theorem CgAfter.eq_zero_or_two {last : BlockType} {cg : BitVec 2} (h : CgAfter last cg)
    (hl : last = .c ∨ last = .cp) : cg = 0#2 ∨ cg = 2#2 := by
  cases h with
  | zero => exact .inl rfl
  | c => exact .inr rfl
  | cp => exact .inr rfl
  | b => simp at hl
  | d => simp at hl

/-- Everything a commit can do to CG and the group event under the default parameters, from a CG that the last commit
left: break, start at a B, go on to a C or C′, and end at a D. -/
theorem CgAfter.cont_cases {last : BlockType} {cg : BitVec 2} (h : CgAfter last cg) (t : BlockType) :
    (t ≠ .b ∧ (cont Config.params last cg t).cg = 0#2 ∧ (cont Config.params last cg t).evG = false) ∨
    (t = .b ∧ (cont Config.params last cg t).cg = 1#2 ∧ (cont Config.params last cg t).evG = false) ∨
    ((t = .c ∨ t = .cp) ∧ last = .b ∧
      (cont Config.params last cg t).cg = 2#2 ∧ (cont Config.params last cg t).evG = false) ∨
    (t = .d ∧ cg = 0#2 ∧ (cont Config.params last cg t).cg = 1#2 ∧ (cont Config.params last cg t).evG = false) ∨
    (t = .d ∧ cg = 2#2 ∧ (cont Config.params last cg t).cg = 0#2 ∧ (cont Config.params last cg t).evG = true) := by
  by_cases hb : t = .b
  · subst hb
    exact .inr (.inl ⟨rfl, rfl, rfl⟩)
  by_cases hc : (t = .c ∨ t = .cp) ∧ last = .b
  · obtain ⟨ht, rfl⟩ := hc
    obtain rfl := h.eq_one
    rw [cont_after_b (by decide) ht]
    exact .inr (.inr (.inl ⟨ht, rfl, rfl, rfl⟩))
  by_cases hd : t = .d ∧ (last = .c ∨ last = .cp)
  · obtain ⟨rfl, hl⟩ := hd
    refine .inr (.inr (.inr ?_))
    obtain rfl | rfl := h.eq_zero_or_two hl <;> rw [cont_d (by decide) hl (.inl rfl)]
    · exact .inl ⟨rfl, rfl, rfl, rfl⟩
    · exact .inr ⟨rfl, rfl, rfl, rfl⟩
  · rw [cont_break hb hc (fun ⟨ht, hl, _⟩ => hd ⟨ht, hl⟩) (fun ⟨_, ha⟩ => absurd ha (by decide))]
    exact .inl ⟨hb, rfl, rfl⟩

theorem CgAfter.of_cont {last : BlockType} {cg : BitVec 2} (h : CgAfter last cg) (t : BlockType) :
    CgAfter t (cont Config.params last cg t).cg := by
  obtain ⟨ht, e, -⟩ | ⟨rfl, e, -⟩ | ⟨rfl | rfl, -, e, -⟩ | ⟨rfl, -, e, -⟩ | ⟨rfl, -, e, -⟩ := h.cont_cases t <;>
    rw [e]
  · exact .zero ht
  · exact .b
  · exact .c
  · exact .cp
  · exact .d
  · exact .zero (by decide)

/-! ### A SYM that commits and a SYM that does not (R106) -/

/-- A SYM commits, or it moves no more than SR, SYNC, SKIP and the strobes. -/
theorem stepSym_held_or_commit (p : Params) (last : BlockType) (b : Bool) (s : State) :
    (∃ sync skip, stepSym p last b s = { s.clearStrobes with sr := shiftIn s.sr b, sync := sync, skip := skip }) ∨
    ∃ n, stepSym p last b s = commit p last (shiftIn s.sr b) (syndrome (shiftIn s.sr b)) n s := by
  obtain ⟨-, e⟩ | ⟨-, -, -, e⟩ | ⟨-, -, e⟩ := stepSym_cases p last b s
  · exact .inl ⟨_, _, e⟩
  · exact .inl ⟨_, _, e⟩
  · exact .inr ⟨_, e⟩

theorem commit_contInv {s : State} {last : BlockType} (hl : s.last = last.code) (hs : s.ContInv) (sr : BlockWord)
    (syn : Word10) (n : Nat) : (commit Config.params last sr syn n s).ContInv := by
  have hlast := commit_last Config.params last sr syn n s
  rw [State.contInv_iff hlast, commit_cg]
  exact ((State.contInv_iff hl).mp hs).of_cont _

/-- Every operation keeps what CG can be. -/
theorem exec_contInv {i : Instr} {s t : State} (hs : s.ContInv) (h : exec i s = .next t) : t.ContInv := by
  cases i with
  | reset => cases (exec_reset_eq s).symm.trans h; exact resetRegisters_contInv s
  | idle => obtain ⟨-, rfl⟩ := exec_idle_next.mp h; exact hs
  | read port sel => obtain ⟨-, -, rfl⟩ := exec_read_next.mp h; exact hs
  | sym b =>
    obtain ⟨-, last, hl, rfl⟩ := exec_sym_next.mp h
    obtain ⟨sync, skip, e⟩ | ⟨n, e⟩ := stepSym_held_or_commit Config.params last b s <;> rw [e]
    · exact hs
    · exact commit_contInv hl hs ..

/-! ### The obligations: continuity -/

/-- Settles O57: a step's operation keeps the relation between LAST and CG, by `CgAfter.of_cont` where it commits. -/
theorem stepKeepsTheContinuityInvariant : Obligations.StepKeepsTheContinuityInvariant := by
  intro s t hs h
  obtain ⟨f, rest, i, -, -, hx⟩ := step_next h
  exact exec_contInv (s := { s with inputs := rest }) hs hx

/-- Settles O19: one lemma for each arm. -/
theorem continuityRule : Obligations.ContinuityRule := by
  refine fun p l t cg hcg => ⟨?_, ?_, ?_, ?_, fun hb hc hd ha => ?_⟩
  · rintro rfl
    exact cont_b p l cg
  · rintro rfl ht
    exact cont_after_b hcg ht
  · rintro hl rfl hfull
    exact cont_d hcg hl hfull
  · rintro rfl ha
    exact cont_exempt_a hcg ha
  · exact cont_break hb (fun ⟨ht, hl⟩ => hc ⟨hl, ht⟩) (fun ⟨ht, hl, hfull⟩ => hd ⟨hl, ht, hfull⟩) ha

/-! ### DETECT and KNOWN (R110) -/

theorem known_iff_mem_synTabs {p : Params} {s : Word10} : known p s = true ↔ s ∈ synTabs p := by
  constructor
  · intro h
    obtain ⟨t, ht⟩ := Option.isSome_iff_exists.mp h
    rw [detect_some ht]
    cases t <;> simp [synTabs]
  · intro h
    by_contra hk
    have hne := known_eq_false_iff.mp (Bool.eq_false_of_not_eq_true hk)
    simp [synTabs, hne] at h

theorem known_of_detect {p : Params} {s : Word10} {t : BlockType} (h : detect p s = some t) : known p s = true := by
  simp [known, h]

/-- The known syndromes, as numbers, are the five type syndromes. -/
theorem filter_known_perm {p : Params} (h : syndromesDistinct p = true) :
    ((List.range 1024).filter fun n => known p (BitVec.ofNat 10 n)).Perm ((synTabs p).map BitVec.toNat) := by
  have hnodup : ((synTabs p).map BitVec.toNat).Nodup :=
    List.Nodup.map (fun _ _ => BitVec.eq_of_toNat_eq) (of_decide_eq_true h)
  refine (List.perm_ext_iff_of_nodup (List.nodup_range.filter _) hnodup).mpr fun n => ?_
  rw [List.mem_filter, List.mem_range, known_iff_mem_synTabs, List.mem_map]
  constructor
  · rintro ⟨hn, hmem⟩
    exact ⟨_, hmem, (BitVec.toNat_ofNat n 10).trans (Nat.mod_eq_of_lt hn)⟩
  · rintro ⟨s, hmem, rfl⟩
    exact ⟨s.isLt, by rwa [BitVec.ofNat_toNat, BitVec.setWidth_eq]⟩

/-! ### The registers a SYM writes (R107, R111, R112) -/

theorem shiftIn_eq (sr : BlockWord) (b : Bool) : shiftIn sr b = (sr <<< 1) ||| (if b then 1#26 else 0#26) := by
  cases b <;> rfl

theorem ofNat_skip_pred {skip : BitVec 5} (h : 2 ≤ skip.toNat) : BitVec.ofNat 5 (skip.toNat - 1) = skip - 1#5 := by
  bv_omega

theorem syncAfter_eq_zero {sync : BitVec 3} {k : Bool} : syncAfter sync k = 0 ↔ k = false ∧ sync.toNat ≤ 1 := by
  cases k
  · simp [syncAfter, Nat.sub_eq_zero_iff_le]
  · simp [syncAfter, Config.syncMax]

/-- The confidence counter as the register holds it after a known syndrome. -/
theorem ofNat_sync_succ {sync : BitVec 3} (h : sync.toNat ≤ 4) :
    BitVec.ofNat 3 (min (sync.toNat + 1) 4) = if sync = 4#3 then 4#3 else sync + 1#3 := by
  split
  · next h4 => simp [h4]
  · next h4 => bv_omega

theorem ofNat_sync_pred {sync : BitVec 3} (h : 2 ≤ sync.toNat) : BitVec.ofNat 3 (sync.toNat - 1) = sync - 1#3 := by
  bv_omega

/-! ### The block test: hunt mode or a commit (R113, R114) -/

section
variable {p : Params} {w : BlockWord} {s : State}

theorem blockTest_of_hunt (h : syncAfter s.sync (known p (syndrome w)) = 0) (last : BlockType) :
    blockTest p last w s = { s.clearStrobes with sr := w, sync := 0#3, skip := 0#5 } :=
  if_pos h

theorem blockTest_of_syncAfter (h : syncAfter s.sync (known p (syndrome w)) ≠ 0) (last : BlockType) :
    blockTest p last w s = commit p last w (syndrome w) (syncAfter s.sync (known p (syndrome w))) s :=
  if_neg h

theorem blockTest_sync (hs : s.sync.toNat ≤ 4) (last : BlockType) :
    (blockTest p last w s).sync.toNat = syncAfter s.sync (known p (syndrome w)) := by
  by_cases h : syncAfter s.sync (known p (syndrome w)) = 0
  · rw [blockTest_of_hunt h, h]
    rfl
  · have h4 := syncAfter_le hs (known p (syndrome w))
    rw [blockTest_of_syncAfter h, commit_sync, BitVec.toNat_ofNat]
    omega

/-- A block test raises O_VALID exactly if it leaves confidence (R124). -/
theorem blockTest_oValid (last : BlockType) :
    (blockTest p last w s).oValid = true ↔ syncAfter s.sync (known p (syndrome w)) ≠ 0 := by
  by_cases h : syncAfter s.sync (known p (syndrome w)) = 0
  · rw [blockTest_of_hunt h]
    exact iff_of_false Bool.false_ne_true (not_not_intro h)
  · rw [blockTest_of_syncAfter h, commit_oValid]
    exact iff_of_true rfl h

end

/-- The whole state after a commit of type `ty`. -/
theorem commit_of_type {p : Params} {last ty : BlockType} {syn : Word10} (h : commitType p last syn = ty)
    (sr : BlockWord) (n : Nat) (s : State) :
    commit p last sr syn n s =
      { s with
        sr := sr, sync := BitVec.ofNat 3 n, skip := 26#5, last := ty.code, cg := (cont p last s.cg ty).cg
        slots := s.slots.set ty (correct p sr ty)
        oValid := true, oType := ty.code, oWord := (correct p sr ty).word, oAvail := (correct p sr ty).avail
        oKnown := known p syn, oSyn := syn
        oEva := (cont p last s.cg ty).evA, oEvb := (cont p last s.cg ty).evB, oEvg := (cont p last s.cg ty).evG } := by
  subst h
  rfl

/-! ### A SYM as an operation (R106) -/

theorem exec_sym_eq {s : State} {last : BlockType} (hs : s.legal = true) (hl : s.last = last.code) (b : Bool) :
    exec (.sym b) s = .next (stepSym Config.params last b s) :=
  exec_sym_next.mpr ⟨hs, last, hl, rfl⟩

/-- Every SYM that raises O_VALID is a commit of the new window. -/
theorem exec_sym_commits {s t : State} {b : Bool} (h : exec (.sym b) s = .next t) (hv : t.oValid = true) :
    ∃ last n, s.last = BlockType.code last ∧
      t = commit Config.params last (shiftIn s.sr b) (syndrome (shiftIn s.sr b)) n s := by
  obtain ⟨-, last, hl, rfl⟩ := exec_sym_next.mp h
  obtain ⟨sync, skip, e⟩ | ⟨n, e⟩ := stepSym_held_or_commit Config.params last b s <;> rw [e] at hv ⊢
  · exact absurd hv Bool.false_ne_true
  · exact ⟨last, n, hl, rfl⟩

/-! ### The obligations: one SYM -/

/-- Settles O9: every end of a SYM writes the shifted window (`stepSym_sr`). -/
theorem symShiftsTheWindow : Obligations.SymShiftsTheWindow := by
  intro s b hs
  obtain ⟨last, hl⟩ := State.legal_last hs
  exact ⟨_, exec_sym_eq hs hl b, (stepSym_sr ..).trans (shiftIn_eq s.sr b)⟩

/-- Settles O10: the count that is left keeps the block test off. -/
theorem symBetweenTests : Obligations.SymBetweenTests := by
  intro s b hs hskip
  obtain ⟨last, hl⟩ := State.legal_last hs
  rw [exec_sym_eq hs hl, stepSym_between hskip, shiftIn_eq, ofNat_skip_pred hskip]
  rfl

/-- Settles O11: an unknown syndrome at a confidence of 0 or 1 leaves none. -/
theorem symHunts : Obligations.SymHunts := by
  intro s b hs hskip hsync hknown
  obtain ⟨last, hl⟩ := State.legal_last hs
  rw [exec_sym_eq hs hl, stepSym_test hskip, blockTest_of_hunt (syncAfter_eq_zero.mpr ⟨hknown, hsync⟩)]
  rfl

/-- Settles O12: a detected and a guessed type differ in the committed type and in the confidence only. -/
theorem symCommits : Obligations.SymCommits := by
  intro s b last ty hs hl hskip h
  obtain ⟨hs4, -⟩ := State.legal_iff.mp hs
  rw [exec_sym_eq hs hl, stepSym_test hskip]
  obtain hdetect | ⟨hknown, hsync, rfl⟩ := h
  · rw [blockTest_of_detect hdetect, commit_of_type (commitType_known hdetect), ofNat_sync_succ hs4,
      known_of_detect hdetect, if_pos rfl]
  · rw [blockTest_of_unknown hknown hsync, commit_of_type (commitType_guess hknown), ofNat_sync_pred hsync, hknown,
      if_neg Bool.false_ne_true]

/-- Settles O13: a block test leaves SYNC at `syncAfter`, and nothing else but RESET writes it. -/
theorem syncCountsBlockTests : Obligations.SyncCountsBlockTests := by
  constructor
  · intro s b hs
    obtain ⟨last, hl⟩ := State.legal_last hs
    obtain ⟨hs4, -⟩ := State.legal_iff.mp hs
    obtain ⟨ht4, -⟩ := State.legal_iff.mp (stepSym_legal hs Config.params last b)
    have htest (hskip : s.skip.toNat ≤ 1) : (stepSym Config.params last b s).sync.toNat =
        syncAfter s.sync (known Config.params (syndrome (shiftIn s.sr b))) := by
      rw [stepSym_test hskip, blockTest_sync hs4]
    refine ⟨_, exec_sym_eq hs hl b, ht4, ?_⟩
    rw [stepSym_sr]
    refine ⟨fun hskip hknown => ?_, fun hskip hknown => ?_, fun hskip => by rw [stepSym_between hskip]; rfl⟩
    · rw [htest hskip, hknown]
      rfl
    · rw [htest hskip, hknown]
      exact (Nat.max_zero _).symm
  · intro i s t hi h
    cases i with
    | reset => cases hi
    | sym b => cases hi
    | idle => obtain ⟨-, rfl⟩ := exec_idle_next.mp h; rfl
    | read port sel => obtain ⟨-, -, rfl⟩ := exec_read_next.mp h; rfl

/-- Settles O14: a block test raises O_VALID exactly with confidence left, and no other SYM raises it. -/
theorem typingIffSyncPositive : Obligations.TypingIffSyncPositive := by
  intro s b hs
  obtain ⟨last, hl⟩ := State.legal_last hs
  obtain ⟨hs4, -⟩ := State.legal_iff.mp hs
  refine ⟨_, exec_sym_eq hs hl b, ?_⟩
  obtain hskip | hskip := Nat.lt_or_ge 1 s.skip.toNat
  · rw [stepSym_between hskip]
    exact iff_of_false Bool.false_ne_true fun ⟨h1, _⟩ => absurd hskip (Nat.not_lt.mpr h1)
  · rw [stepSym_test hskip, blockTest_oValid, blockTest_sync hs4, and_iff_right hskip, Nat.pos_iff_ne_zero]

/-- Settles O15: RESET, IDLE and the two ends of a SYM that commit nothing clear the strobes; the third end, a test with
confidence left, raises O_VALID. -/
theorem strobesLastOneStep : Obligations.StrobesLastOneStep := by
  refine ⟨fun s => ⟨_, exec_reset_eq s, rfl, rfl, rfl, rfl⟩,
    fun s hs => ⟨_, exec_idle_next.mpr ⟨hs, rfl⟩, rfl, rfl, rfl, rfl, rfl, rfl, rfl, rfl, rfl⟩, ?_, ?_⟩
  · intro s b hs h
    obtain hskip | ⟨hskip, hsync, hknown⟩ := h
    · exact ⟨_, symBetweenTests s b hs hskip, rfl, rfl, rfl, rfl, rfl, rfl, rfl, rfl, rfl⟩
    · exact ⟨_, symHunts s b hs hskip hsync hknown, rfl, rfl, rfl, rfl, rfl, rfl, rfl, rfl, rfl⟩
  · intro s b hs hskip h
    obtain ⟨last, hl⟩ := State.legal_last hs
    refine ⟨_, exec_sym_eq hs hl b, ?_⟩
    rw [stepSym_test hskip, blockTest_oValid, Ne, syncAfter_eq_zero]
    rintro ⟨hknown, hsync⟩
    obtain h2 | hk := h
    · omega
    · exact Bool.false_ne_true (hknown.symm.trans hk)

/-- Settles O16: a commit writes the slot of its type with CORRECT's answer and no other slot. -/
theorem commitStoresTheCorrectedBlock : Obligations.CommitStoresTheCorrectedBlock := by
  intro s t b h hv
  obtain ⟨last, n, -, rfl⟩ := exec_sym_commits h hv
  rw [commit_sr, commit_oType]
  generalize hty : commitType Config.params last (syndrome (shiftIn s.sr b)) = ty
  exact ⟨ty, rfl, commit_slotRead_of_type hty _ _ _,
    fun other hne => commit_slotRead_other _ _ _ _ _ _ (hty ▸ hne)⟩

/-- Settles O17: the table and the codes of R70. -/
theorem guessedTypeIsTheNextCode : Obligations.GuessedTypeIsTheNextCode := by
  refine ⟨rfl, rfl, rfl, rfl, rfl, fun ty => ?_⟩
  cases ty <;> rfl

/-- Settles O18: DETECT's answer is the only type with the syndrome, since the five are distinct. -/
theorem detectFindsExactlyTheTableEntries : Obligations.DetectFindsExactlyTheTableEntries := by
  refine fun p s hd => ⟨fun ty => ⟨detect_some, fun h => h ▸ detect_synTab hd ty⟩, ?_⟩
  rw [known_iff_mem_synTabs]
  simp [synTabs]

/-- Settles O20: event A is the test of the committed type, without the block's flag. -/
theorem eventAAtEveryBlockA : Obligations.EventAAtEveryBlockA := by
  intro s t b h hv
  obtain ⟨last, n, -, rfl⟩ := exec_sym_commits h hv
  rw [commit_oEva, commit_oType, BlockType.code_inj]
  exact beq_iff_eq

/-- Settles O23: the D counts the stored 2 up to a complete group. -/
theorem groupEventWhenTheCountReachesThree : Obligations.GroupEventWhenTheCountReachesThree := by
  intro s t b h hv htype hlast hcg
  obtain ⟨last, n, hl, rfl⟩ := exec_sym_commits h hv
  rw [commit_oType, BlockType.code_inj] at htype
  rw [hl, BlockType.code_inj, BlockType.code_inj] at hlast
  rw [commit_oEvg, commit_cg, htype, hcg, cont_d (by decide) hlast (.inl rfl)]
  exact ⟨rfl, rfl⟩

/-- Settles O24: the detected type commits with SYNC = 0 + 1; the known syndromes are the five of the table. -/
theorem lockAcquisition : Obligations.LockAcquisition := by
  constructor
  · intro s b ty hs hsync hskip hsyn
    obtain ⟨last, hl⟩ := State.legal_last hs
    have hdetect : detect Config.params (syndrome (shiftIn s.sr b)) = some ty := by
      rw [hsyn, detect_synTab params_syndromesDistinct]
    refine ⟨_, exec_sym_eq hs hl b, ?_⟩
    rw [stepSym_test (by simp [hskip]), blockTest_of_detect hdetect, commit_of_type (commitType_known hdetect), hsync,
      known_of_detect hdetect]
    exact ⟨rfl, rfl, rfl, rfl, rfl, rfl⟩
  · rw [List.countP_eq_length_filter, (filter_known_perm params_syndromesDistinct).length_eq]
    rfl

/-! ### Runs and their commits, one operation at a time -/

/-- The commit that an operation ending in `t` adds to a run (`commitsOf_cons`). -/
def commitOf (i : Instr) (t : State) : List Code := if i.isSym && t.oValid then [t.oType] else []

theorem commitsOf_cons {i : Instr} {s t : State} (h : exec i s = .next t) (l : List Instr) :
    commitsOf (i :: l) s = commitOf i t ++ commitsOf l t := by
  simp only [commitsOf, h, commitOf]
  split <;> rfl

theorem commitOf_of_not_oValid {t : State} (h : t.oValid = false) (i : Instr) : commitOf i t = [] := by
  simp [commitOf, h]

theorem commitOf_sym {t : State} (h : t.oValid = true) (b : Bool) : commitOf (.sym b) t = [t.oType] :=
  if_pos h

/-- A run that completes does so after its first operation. -/
theorem runInstrs_cons_next {i : Instr} {l : List Instr} {s t : State} (h : runInstrs (i :: l) s = .next t) :
    ∃ u, exec i s = .next u ∧ runInstrs l u = .next t := by
  cases e : exec i s with
  | next u => exact ⟨u, rfl, (runInstrs_cons e l).symm.trans h⟩
  | fault r => simp [runInstrs, e] at h
  | refused r => simp [runInstrs, e] at h

theorem countSyms_cons (i : Instr) (l : List Instr) : countSyms (i :: l) = countSyms [i] + countSyms l := by
  cases i <;> simp [Nat.add_comm]

/-! ### Between block tests (R126) -/

/-- The registers that only a block test or a RESET writes. -/
def State.heldRegs (s : State) :
    SlotFile × BitVec 3 × Code × BitVec 2 × Code × BlockWord × Bool × Bool × Word10 :=
  (s.slots, s.sync, s.last, s.cg, s.oType, s.oWord, s.oAvail, s.oKnown, s.oSyn)

/-- An operation that makes no block test: a SYM counts SKIP down, and nothing is committed. -/
theorem exec_between_tests {i : Instr} {s : State} (hs : s.legal = true) (hreset : i ≠ .reset)
    (hpresent : i.present Config.params = true) (hskip : countSyms [i] < s.skip.toNat) :
    ∃ t, exec i s = .next t ∧ t.legal = true ∧ commitOf i t = [] ∧ t.heldRegs = s.heldRegs ∧
      t.skip.toNat = s.skip.toNat - countSyms [i] := by
  cases i with
  | reset => exact absurd rfl hreset
  | idle => exact ⟨_, exec_idle_next.mpr ⟨hs, rfl⟩, hs, rfl, rfl, rfl⟩
  | read port sel => exact ⟨_, exec_read_next.mpr ⟨hs, of_decide_eq_true hpresent, rfl⟩, hs, rfl, rfl, rfl⟩
  | sym b =>
    obtain ⟨last, hl⟩ := State.legal_last hs
    have hlegal := stepSym_legal hs Config.params last b
    refine ⟨_, exec_sym_eq hs hl b, hlegal, ?_⟩
    rw [stepSym_between hskip]
    exact ⟨rfl, rfl, toNat_ofNat_skip_pred s.skip⟩

/-- Fewer SYMs than SKIP counts make no block test, whatever stands between them. -/
theorem runInstrs_between_tests {l : List Instr} {s : State} (hs : s.legal = true)
    (hl : ∀ i ∈ l, i ≠ .reset ∧ i.present Config.params = true) (hskip : countSyms l < s.skip.toNat) :
    ∃ t, runInstrs l s = .next t ∧ t.legal = true ∧ commitsOf l s = [] ∧ t.heldRegs = s.heldRegs ∧
      t.skip.toNat = s.skip.toNat - countSyms l := by
  induction l generalizing s with
  | nil => exact ⟨s, rfl, hs, rfl, rfl, rfl⟩
  | cons i l ih =>
    obtain ⟨⟨hreset, hpresent⟩, hl⟩ := List.forall_mem_cons.mp hl
    rw [countSyms_cons] at hskip ⊢
    obtain ⟨u, hexec, hulegal, hcommit, hheld, huskip⟩ := exec_between_tests hs hreset hpresent (by omega)
    obtain ⟨t, hrun, htlegal, hcommits, hheld', htskip⟩ := ih hulegal hl (by omega)
    refine ⟨t, (runInstrs_cons hexec l).trans hrun, htlegal, ?_, hheld'.trans hheld, by omega⟩
    rw [commitsOf_cons hexec, hcommit, hcommits, List.nil_append]

/-! ### Blocks from one block test to the next (R109, R127) -/

theorem countSyms_map_sym (bits : List Bool) : countSyms (bits.map .sym) = bits.length := by
  induction bits with
  | nil => rfl
  | cons b bits ih => simp [ih]

/-- As many SYMs as SKIP counts commit at most once, at the end. -/
theorem commitsOf_syms_to_test {s t : State} {bits : List Bool} (hs : s.legal = true)
    (hskip : s.skip.toNat = bits.length) (h0 : bits ≠ []) (hrun : runInstrs (bits.map .sym) s = .next t) :
    commitsOf (bits.map .sym) s = if t.oValid then [t.oType] else [] := by
  obtain rfl | ⟨front, b, rfl⟩ := List.eq_nil_or_concat' bits
  · exact absurd rfl h0
  have hfront : ∀ i ∈ front.map Instr.sym, i ≠ .reset ∧ i.present Config.params = true := by
    rintro i hi
    obtain ⟨x, -, rfl⟩ := List.mem_map.mp hi
    exact ⟨Instr.noConfusion, rfl⟩
  obtain ⟨u, hu, -, hcommits, -⟩ := runInstrs_between_tests hs hfront (by
    rw [countSyms_map_sym, hskip, List.length_append]
    exact Nat.lt_succ_self _)
  rw [List.map_append] at hrun ⊢
  obtain ⟨hrun', hcommits'⟩ := runInstrs_append hu ([b].map .sym)
  obtain ⟨t', hexec, hdone⟩ := runInstrs_cons_next (hrun'.symm.trans hrun)
  cases hdone
  rw [hcommits', hcommits, List.map_singleton, commitsOf_cons hexec]
  exact List.append_nil _

theorem commitsOf_symsOf {s t : State} {w : BlockWord} (hs : s.legal = true) (hskip : s.skip = 26#5)
    (hrun : runInstrs (symsOf w) s = .next t) :
    commitsOf (symsOf w) s = if t.oValid then [t.oType] else [] := by
  have hlen : s.skip.toNat = (blockBits w).length := by rw [hskip]; rfl
  unfold symsOf at hrun ⊢
  exact commitsOf_syms_to_test hs hlen (List.cons_ne_nil _ _) hrun

/-- A block with an unknown syndrome, received at a confidence of 2 or more, commits the guess after LAST and leaves the
machine at the next block with one confidence less. -/
theorem unknown_block_commits_guess {s : State} {last : BlockType} {w : BlockWord} (hs : s.legal = true)
    (hl : s.last = last.code) (hskip : s.skip = 26#5) (hsync : 2 ≤ s.sync.toNat)
    (hw : known Config.params (syndrome w) = false) :
    ∃ t, runInstrs (symsOf w) s = .next t ∧ commitsOf (symsOf w) s = [(succType last).code] ∧ t.legal = true ∧
      t.last = (succType last).code ∧ t.skip = 26#5 ∧ t.sync.toNat = s.sync.toNat - 1 := by
  obtain ⟨hs4, -⟩ := State.legal_iff.mp hs
  have hrun := runInstrs_symsOf hs hl hskip w
  have hcommits := commitsOf_symsOf hs hskip hrun
  have hsync' := blockTest_sync (p := Config.params) (w := w) hs4 last
  rw [blockTest_of_unknown hw hsync] at hrun hcommits hsync'
  rw [commit_oValid, if_pos rfl, commit_oType, commitType_guess hw] at hcommits
  rw [hw] at hsync'
  refine ⟨_, hrun, hcommits, (commit_inv _ _ _ _ (by omega) (by omega) s).legal, ?_, commit_skip .., hsync'⟩
  rw [commit_last, commitType_guess hw]

/-- A block with an unknown syndrome, received at a confidence of 1, commits nothing and ends in hunt mode. -/
theorem unknown_block_hunts {s : State} {last : BlockType} {w : BlockWord} (hs : s.legal = true)
    (hl : s.last = last.code) (hskip : s.skip = 26#5) (hsync : s.sync.toNat ≤ 1)
    (hw : known Config.params (syndrome w) = false) :
    ∃ t, runInstrs (symsOf w) s = .next t ∧ commitsOf (symsOf w) s = [] ∧ t.sync = 0#3 ∧ t.skip = 0#5 ∧
      t.oValid = false := by
  have hrun := runInstrs_symsOf hs hl hskip w
  have hcommits := commitsOf_symsOf hs hskip hrun
  rw [blockTest_of_hunt (syncAfter_eq_zero.mpr ⟨hw, hsync⟩)] at hrun hcommits
  exact ⟨_, hrun, hcommits, rfl, rfl, rfl⟩

/-- The first of the guesses, and the guesses after it. -/
theorem guesses_succ (last : BlockType) (n : Nat) :
    ((List.range (n + 1)).map fun k => (succType^[k + 1] last).code) =
      (succType last).code :: (List.range n).map fun k => (succType^[k + 1] (succType last)).code := by
  rw [List.range_succ_eq_map, List.map_cons, List.map_map]
  rfl

/-! ### What the commits of a run say about CG (R120) -/

theorem CgAfter.of_cont_cg_eq_two {last t : BlockType} {cg : BitVec 2} (h : CgAfter last cg)
    (h2 : (cont Config.params last cg t).cg = 2#2) : (t = .c ∨ t = .cp) ∧ last = .b := by
  obtain ⟨-, e, -⟩ | ⟨-, e, -⟩ | ⟨ht, hl, -⟩ | ⟨-, -, e, -⟩ | ⟨-, -, e, -⟩ := h.cont_cases t
  · simp [e] at h2
  · simp [e] at h2
  · exact ⟨ht, hl⟩
  · simp [e] at h2
  · simp [e] at h2

theorem CgAfter.of_cont_evG {last t : BlockType} {cg : BitVec 2} (h : CgAfter last cg)
    (hg : (cont Config.params last cg t).evG = true) : t = .d ∧ cg = 2#2 := by
  obtain ⟨-, -, e⟩ | ⟨-, -, e⟩ | ⟨-, -, -, e⟩ | ⟨-, -, -, e⟩ | ⟨ht, hcg, -⟩ := h.cont_cases t
  · simp [e] at hg
  · simp [e] at hg
  · simp [e] at hg
  · simp [e] at hg
  · exact ⟨ht, hcg⟩

/-- The last commits are of the types `x`, as far as the run made them. -/
def EndsIn (commits x : List Code) : Prop := x.length ≤ commits.length → x <:+ commits

theorem EndsIn.of_nil {c : Code} {x : List Code} : EndsIn [] (c :: x) :=
  fun h => absurd h (Nat.not_succ_le_zero _)

theorem EndsIn.concat {commits x : List Code} (h : EndsIn commits x) (c : Code) :
    EndsIn (commits ++ [c]) (x ++ [c]) := by
  intro hlen
  rw [List.length_append, List.length_append] at hlen
  obtain ⟨before, rfl⟩ := h (Nat.le_of_add_le_add_right hlen)
  exact ⟨before, (List.append_assoc ..).symm⟩

/-- What the commits of a run, as far as it made them, have to be for its state: LAST = B comes from a B, CG = 2 from a
B and a C or C′, and the group event from these and a D. -/
structure GroupHistory (commits : List Code) (s : State) : Prop where
  contInv : s.ContInv
  lastB : s.last = BlockType.code .b → EndsIn commits [BlockType.code .b]
  cgTwo : s.cg = 2#2 → ∃ third : BlockType, (third = .c ∨ third = .cp) ∧
    EndsIn commits [BlockType.code .b, third.code]
  group : s.oEvg = true → ∃ third : BlockType, (third = .c ∨ third = .cp) ∧
    EndsIn commits [BlockType.code .b, third.code, BlockType.code .d]

theorem GroupHistory.of_nil {s : State} (h : s.ContInv) : GroupHistory [] s :=
  ⟨h, fun _ => .of_nil, fun _ => ⟨.c, .inl rfl, .of_nil⟩, fun _ => ⟨.c, .inl rfl, .of_nil⟩⟩

theorem GroupHistory.of_held {commits : List Code} {s t : State} (h : GroupHistory commits s)
    (hlast : t.last = s.last) (hcg : t.cg = s.cg) (hevg : t.oEvg = true → s.oEvg = true) :
    GroupHistory commits t where
  contInv := by
    have hc := h.contInv
    unfold State.ContInv at hc ⊢
    rwa [hlast, hcg]
  lastB hb := h.lastB (hlast ▸ hb)
  cgTwo h2 := h.cgTwo (hcg ▸ h2)
  group hg := h.group (hevg hg)

theorem GroupHistory.of_reset (commits : List Code) (s : State) : GroupHistory commits (resetRegisters s) where
  contInv := resetRegisters_contInv s
  lastB hb := absurd hb (by rw [resetRegisters_last]; decide)
  cgTwo h2 := absurd h2 (by rw [resetRegisters_cg]; decide)
  group hg := absurd hg Bool.false_ne_true

/-- A commit appends its type to the history it counts on. -/
theorem GroupHistory.of_commit {commits : List Code} {s : State} {last : BlockType} (h : GroupHistory commits s)
    (hl : s.last = last.code) (sr : BlockWord) (syn : Word10) (n : Nat) :
    GroupHistory (commits ++ [(commitType Config.params last syn).code]) (commit Config.params last sr syn n s) where
  contInv := commit_contInv hl h.contInv sr syn n
  lastB hb := by
    rw [commit_last] at hb
    rw [hb]
    exact EndsIn.concat (fun _ => List.nil_suffix) _
  cgTwo h2 := by
    rw [commit_cg] at h2
    obtain ⟨ht, rfl⟩ := ((State.contInv_iff hl).mp h.contInv).of_cont_cg_eq_two h2
    exact ⟨_, ht, (h.lastB hl).concat _⟩
  group hg := by
    rw [commit_oEvg] at hg
    obtain ⟨ht, h2⟩ := ((State.contInv_iff hl).mp h.contInv).of_cont_evG hg
    obtain ⟨third, hthird, hend⟩ := h.cgTwo h2
    rw [ht]
    exact ⟨third, hthird, hend.concat _⟩

theorem GroupHistory.of_exec {commits : List Code} {i : Instr} {s t : State} (h : GroupHistory commits s)
    (hexec : exec i s = .next t) : GroupHistory (commits ++ commitOf i t) t := by
  cases i with
  | reset =>
    cases (exec_reset_eq s).symm.trans hexec
    exact .of_reset _ s
  | idle =>
    obtain ⟨-, rfl⟩ := exec_idle_next.mp hexec
    rw [commitOf_of_not_oValid rfl, List.append_nil]
    exact h.of_held rfl rfl fun hg => absurd hg Bool.false_ne_true
  | read port sel =>
    obtain ⟨-, -, rfl⟩ := exec_read_next.mp hexec
    exact (List.append_nil commits).symm ▸ h.of_held rfl rfl id
  | sym b =>
    obtain ⟨-, last, hl, rfl⟩ := exec_sym_next.mp hexec
    obtain ⟨sync, skip, e⟩ | ⟨n, e⟩ := stepSym_held_or_commit Config.params last b s <;> rw [e]
    · rw [commitOf_of_not_oValid rfl, List.append_nil]
      exact h.of_held rfl rfl fun hg => absurd hg Bool.false_ne_true
    · rw [commitOf_sym (commit_oValid ..), commit_oType]
      exact h.of_commit hl _ _ n

theorem GroupHistory.of_run {l : List Instr} {commits : List Code} {s t : State} (h : GroupHistory commits s)
    (hrun : runInstrs l s = .next t) : GroupHistory (commits ++ commitsOf l s) t := by
  induction l generalizing s commits with
  | nil =>
    cases hrun
    exact (List.append_nil commits).symm ▸ h
  | cons i l ih =>
    obtain ⟨u, hexec, hrun⟩ := runInstrs_cons_next hrun
    rw [commitsOf_cons hexec, ← List.append_assoc]
    exact ih (h.of_exec hexec) hrun

/-! ### The obligations: runs -/

/-- Settles O22: the commits of a run are the history that its group event counts on (`GroupHistory.of_run`); of the
invariants of the first state only the one on CG is needed. -/
theorem groupEventNeedsConsecutiveBCD : Obligations.GroupEventNeedsConsecutiveBCD := by
  intro l s t _ hcont hrun hg hlen
  obtain ⟨third, hthird, hend⟩ := ((GroupHistory.of_nil hcont).of_run hrun).group hg
  obtain ⟨before, e⟩ := hend hlen
  exact ⟨before, third, hthird, e.symm⟩

/-- Settles O25: each block before the last commits the guess after the one before and takes one confidence; the last
finds one left and ends in hunt mode. -/
theorem lossOfLock : Obligations.LossOfLock := by
  intro s last blocks hs hl hskip h1 hlen hunknown
  induction blocks generalizing s last with
  | nil => exact absurd h1 (by decide)
  | cons w blocks ih =>
    obtain ⟨hw, hunknown⟩ := List.forall_mem_cons.mp hunknown
    rw [List.length_cons] at hlen
    rw [List.flatMap_cons, List.length_cons, Nat.add_sub_cancel]
    cases blocks with
    | nil =>
      obtain ⟨t, hrun, hcommits, hsync, hskip, hvalid⟩ := unknown_block_hunts hs hl hskip hlen.ge hw
      rw [List.flatMap_nil, List.append_nil]
      exact ⟨t, hrun, hsync, hskip, hvalid, hcommits⟩
    | cons v blocks =>
      rw [List.length_cons] at hlen
      obtain ⟨u, hrun, hcommits, hu, hul, huskip, husync⟩ :=
        unknown_block_commits_guess hs hl hskip (by omega) hw
      obtain ⟨t, hrest, hsync, hskip, hvalid, hrestCommits⟩ :=
        ih u (succType last) hu hul huskip (Nat.succ_le_succ (Nat.zero_le _)) (by rw [List.length_cons]; omega) hunknown
      obtain ⟨hrun, hall⟩ := runInstrs_append hrun ((v :: blocks).flatMap symsOf)
      refine ⟨t, hrun.trans hrest, hsync, hskip, hvalid, ?_⟩
      rw [hall, hcommits, hrestCommits, List.length_cons, guesses_succ]
      rfl

/-- Settles O26: 25 SYMs from SKIP = 26 make no block test, and only a block test or a RESET writes the held
registers. -/
theorem slotsStayForTwentyFiveSymbols : Obligations.SlotsStayForTwentyFiveSymbols := by
  intro l s hs hskip hl hcount
  have h26 : s.skip.toNat = 26 := by rw [hskip]; rfl
  obtain ⟨t, hrun, -, hcommits, hheld, htskip⟩ := runInstrs_between_tests hs hl (by omega)
  simp only [State.heldRegs, Prod.mk.injEq] at hheld
  obtain ⟨hslots, hsync, hlast, hcg, hout⟩ := hheld
  exact ⟨t, hrun, hcommits, hslots, hsync, hlast, hcg, h26 ▸ htskip, hout⟩

end Sys2Proof.Machine

/-! ## Proofs: the control operations (42_control.md) -/

namespace Sys2Proof.Machine

/-! ### Steps that are refused (R135) -/

theorem step_of_fetch_error {s : State} {r : Refusal} (h : fetch s = .error r) : step s = .refused r := by
  simp [step, h]

/-- A frame of 16 or more has an upper bit set; a read frame then names a port other than port 0. -/
theorem one_le_toNat_port {f : Byte} (h : 16 ≤ f.toNat) : 1 ≤ (f.extractLsb' 4 4).toNat := by
  rw [BitVec.extractLsb'_toNat, Nat.shiftRight_eq_div_pow]
  omega

theorem decodeFrame_reserved {f : Byte} (h3 : f.getLsbD 3 = false) (h : 16 ≤ f.toNat) :
    decodeFrame f = .error .reservedFrameBits := by
  have hport : f.extractLsb' 4 4 ≠ 0#4 := fun h0 => by simpa [h0] using one_le_toNat_port h
  rw [decodeFrame, if_neg (Bool.eq_false_iff.mp h3), if_neg hport]

/-! ### States with an unreachable value (93 U3, U5) -/

theorem State.legal_eq_false_iff {s : State} :
    s.legal = false ↔
      5 ≤ s.sync.toNat ∨ 27 ≤ s.skip.toNat ∨ 5 ≤ s.last.toNat ∨ s.cg = 3#2 ∨ 5 ≤ s.oType.toNat := by
  have hcg : s.cg = 3#2 ↔ ¬s.cg.toNat ≤ 2 := by bv_omega
  rw [← Bool.not_eq_true, State.legal_iff, hcg]
  omega

/-- Every operation but RESET tests the state first. -/
theorem exec_of_not_legal {i : Instr} {s : State} (hi : i ≠ .reset) (hs : s.legal = false) :
    exec i s = .refused .unreachableState := by
  cases i with
  | reset => exact absurd rfl hi
  | idle => rw [exec, execIdle, idleAt, onConfig_params, onLegal_of_not_legal hs]
  | sym b => rw [exec, execSym, symAt, onConfig_params, onLegal_of_not_legal hs]
  | read port sel => rw [exec, execRead, readAt, onConfig_params, onLegal_of_not_legal hs]

/-! ### Runs of IDLEs (R131) -/

/-- A positive number of IDLEs does what one does. -/
theorem runInstrs_idles {s : State} (hs : s.legal = true) (n : Nat) :
    runInstrs (List.replicate (n + 1) .idle) s = .next s.clearStrobes := by
  induction n generalizing s with
  | zero => exact runInstrs_cons (exec_idle_next.mpr ⟨hs, rfl⟩) []
  | succ n ih =>
    rw [List.replicate_succ, runInstrs_cons (exec_idle_next.mpr ⟨hs, rfl⟩)]
    exact ih (s := s.clearStrobes) hs

theorem countSyms_idles_append (n : Nat) (l : List Instr) :
    countSyms (List.replicate n .idle ++ l) = countSyms l := by
  induction n with
  | zero => rfl
  | succ n ih => rw [List.replicate_succ, List.cons_append, countSyms_idle, ih]

/-! ### The SYM after a RESET (R132) -/

/-- SKIP = 0 after RESET, so the first SYM makes a block test. -/
theorem stepSym_resetRegisters (p : Params) (last : BlockType) (b : Bool) (s : State) :
    stepSym p last b (resetRegisters s) = blockTest p last (shiftIn 0#26 b) (resetRegisters s) :=
  stepSym_test (s := resetRegisters s) (Nat.zero_le 1) p last b

theorem syncAfter_zero_ne_zero {k : Bool} : syncAfter 0#3 k ≠ 0 ↔ k = true := by
  cases k <;> decide

/-! ### The registers that IDLE and READ leave alone (R131, R133) -/

/-- The state with all that IDLE and READ can move, and the pending samples, at one value: two states with the same
data registers are one (`State.sameData_iff`). -/
def State.data (s : State) : State := { s.clearStrobes with rdSel := [], inputs := [] }

theorem State.sameData_iff {s t : State} : s.sameData t ↔ s.data = t.data := by
  cases s
  cases t
  simp [State.sameData, State.data, State.clearStrobes]

theorem State.sameData.legal {s t : State} (h : s.sameData t) (hs : s.legal = true) : t.legal = true :=
  (congrArg State.legal (State.sameData_iff.mp h)).symm.trans hs

/-- A SYM writes all four strobes and reads none. -/
theorem stepSym_clearStrobes (p : Params) (last : BlockType) (b : Bool) (s : State) :
    stepSym p last b s.clearStrobes = stepSym p last b s :=
  ite_congr rfl (fun _ => rfl) fun _ => blockTest_of_between p last _ s s.sr s.skip

theorem stepSym_data (p : Params) (last : BlockType) (b : Bool) (s : State) :
    stepSym p last b s.data = { stepSym p last b s with rdSel := [], inputs := [] } :=
  (stepSym_env p last b s.clearStrobes [] []).trans (by rw [stepSym_clearStrobes])

/-- A SYM's registers, strobes included, are a function of the data registers (R130). -/
theorem stepSym_of_sameData {s t : State} (h : s.sameData t) (p : Params) (last : BlockType) (b : Bool) :
    (stepSym p last b s).sameData (stepSym p last b t) ∧
      (stepSym p last b s).oValid = (stepSym p last b t).oValid := by
  have hstep := congrArg (stepSym p last b) (State.sameData_iff.mp h)
  rw [stepSym_data, stepSym_data] at hstep
  exact ⟨State.sameData_iff.mpr (congrArg State.data hstep :), (congrArg State.oValid hstep :)⟩

/-- SYM and RESET do the same, with the same commit, in two states with the same data registers. -/
theorem exec_writes_of_sameData {i : Instr} {s t : State} (hi : i.writes = true) (hs : s.legal = true)
    (h : s.sameData t) :
    ∃ s' t', exec i s = .next s' ∧ exec i t = .next t' ∧ s'.legal = true ∧ s'.sameData t' ∧
      commitOf i s' = commitOf i t' := by
  cases i with
  | idle => cases hi
  | read port sel => cases hi
  | reset =>
    exact ⟨_, _, exec_reset_eq s, exec_reset_eq t, resetRegisters_legal s, State.sameData_iff.mpr rfl, rfl⟩
  | sym b =>
    obtain ⟨last, hl⟩ := State.legal_last hs
    have hlast : s.last = t.last := (congrArg State.last (State.sameData_iff.mp h) :)
    obtain ⟨hdata, hvalid⟩ := stepSym_of_sameData h Config.params last b
    have htype : (stepSym Config.params last b s).oType = (stepSym Config.params last b t).oType :=
      (congrArg State.oType (State.sameData_iff.mp hdata) :)
    refine ⟨_, _, exec_sym_eq hs hl b, exec_sym_eq (h.legal hs) (hlast.symm.trans hl) b, stepSym_legal hs _ _ b,
      hdata, ?_⟩
    rw [commitOf, commitOf, hvalid, htype]

/-- IDLE and READ write no data register and commit nothing. -/
theorem exec_keeps_data {i : Instr} {s : State} (hi : i.writes = false) (hpresent : i.present Config.params = true)
    (hs : s.legal = true) :
    ∃ s', exec i s = .next s' ∧ s'.legal = true ∧ s'.data = s.data ∧ commitOf i s' = [] := by
  cases i with
  | reset => cases hi
  | sym b => cases hi
  | idle => exact ⟨_, exec_idle_next.mpr ⟨hs, rfl⟩, hs, rfl, rfl⟩
  | read port sel => exact ⟨_, exec_read_next.mpr ⟨hs, of_decide_eq_true hpresent, rfl⟩, hs, rfl, rfl⟩

/-- A run and the run of its SYMs and RESETs alone, from states with the same data registers, stay at the same data
registers and make the same commits. -/
theorem runInstrs_filter_writes {l : List Instr} {s t : State} (hs : s.legal = true) (h : s.sameData t)
    (hl : ∀ i ∈ l, i.present Config.params = true) :
    ∃ s' t', runInstrs l s = .next s' ∧ runInstrs (l.filter Instr.writes) t = .next t' ∧ s'.sameData t' ∧
      commitsOf l s = commitsOf (l.filter Instr.writes) t := by
  induction l generalizing s t with
  | nil => exact ⟨s, t, rfl, rfl, h, rfl⟩
  | cons i l ih =>
    obtain ⟨hpresent, hl⟩ := List.forall_mem_cons.mp hl
    by_cases hi : i.writes = true
    · obtain ⟨s₁, t₁, hexecs, hexect, hs₁, h₁, hcommit⟩ := exec_writes_of_sameData hi hs h
      obtain ⟨s', t', hruns, hrunt, h', hcommits⟩ := ih hs₁ h₁ hl
      rw [List.filter_cons_of_pos hi, runInstrs_cons hexecs, runInstrs_cons hexect, commitsOf_cons hexecs,
        commitsOf_cons hexect, hcommit, hcommits]
      exact ⟨s', t', hruns, hrunt, h', rfl⟩
    · obtain ⟨s₁, hexec, hs₁, hdata, hcommit⟩ := exec_keeps_data (Bool.eq_false_of_not_eq_true hi) hpresent hs
      have h₁ : s₁.sameData t := State.sameData_iff.mpr (hdata.trans (State.sameData_iff.mp h))
      rw [List.filter_cons_of_neg hi, runInstrs_cons hexec, commitsOf_cons hexec, hcommit, List.nil_append]
      exact ih hs₁ h₁ hl

/-! ### The obligations -/

/-- Settles O27: the run and its SYMs and RESETs go through states with the same data registers
(`runInstrs_filter_writes`). -/
theorem idlesAndReadsDoNotMatter : Obligations.IdlesAndReadsDoNotMatter :=
  fun _ _ hs hl => runInstrs_filter_writes hs (State.sameData_iff.mpr rfl) hl

/-- Settles O2: RESET asks nothing of the state, and leaves SKIP = 0 and SYNC = 0, from which a SYM makes a block test
that commits only a known syndrome. -/
theorem resetFromAnyState : Obligations.ResetFromAnyState := by
  refine ⟨exec_reset_eq, fun s => ?_, fun c hrst => ?_, fun s b => ?_⟩
  · rw [runInstrs_cons (exec_reset_eq s), runInstrs_cons (exec_reset_eq _), exec_reset_eq]
    rfl
  · rw [decodeFrame_command, decodeCommand_eq_reset.mpr hrst]
  · have hsym := exec_sym_eq (last := .a) (resetRegisters_legal s) rfl b
    refine ⟨_, (runInstrs_cons (exec_reset_eq s) _).trans (runInstrs_cons hsym []), ?_⟩
    rw [stepSym_sr, resetRegisters_sr, stepSym_resetRegisters, blockTest_oValid, resetRegisters_sync]
    refine ⟨syncAfter_zero_ne_zero, fun hunknown => ?_⟩
    have hsync : (resetRegisters s).sync.toNat ≤ 1 := Nat.zero_le 1
    rw [blockTest_of_hunt (syncAfter_eq_zero.mpr ⟨hunknown, hsync⟩)]
    exact ⟨rfl, rfl⟩

/-- Settles O3: the strobes are cleared by the first IDLE, and one SYM among IDLEs counts SKIP = 5 down once
(`runInstrs_between_tests`). -/
theorem idleOnlyClearsStrobes : Obligations.IdleOnlyClearsStrobes := by
  refine ⟨fun s n hs => runInstrs_idles hs n, fun c hrst hvalid => ?_, fun s n b hs hskip => ?_⟩
  · rw [decodeFrame_command, decodeCommand_eq_idle.mpr ⟨hrst, hvalid⟩]
  · have hcount : countSyms (List.replicate n .idle ++ [.sym b]) = 1 := countSyms_idles_append n [.sym b]
    have hops : ∀ i ∈ List.replicate n Instr.idle ++ [.sym b], i ≠ .reset ∧ i.present Config.params = true := by
      intro i hi
      obtain hi | hi := List.mem_append.mp hi
      · rw [List.eq_of_mem_replicate hi]
        exact ⟨Instr.noConfusion, rfl⟩
      · rw [List.mem_singleton.mp hi]
        exact ⟨Instr.noConfusion, rfl⟩
    obtain ⟨t, hrun, -, -, -, htskip⟩ := runInstrs_between_tests hs hops (by rw [hcount, hskip]; decide)
    rw [hcount, hskip] at htskip
    exact ⟨t, hrun, BitVec.eq_of_toNat_eq htskip⟩

/-- Settles O4: READ drives the select wires of its port and no other, and the port shows what they select. -/
theorem readShowsTheSelectedSlot : Obligations.ReadShowsTheSelectedSlot := by
  intro s port sel hs hp
  refine ⟨driveSel port sel s, exec_read_next.mpr ⟨hs, hp, rfl⟩, rfl, fun other hne => ?_, ?_⟩
  · rw [driveSel_rdLevel, if_neg hne]
  · rintro ty rfl
    rw [driveSel_readPort_same hp, State.readSel_code]

/-- Settles O52: the upper bits of the frame are not 0, which no command sample has and which name a read port above the
only one. -/
theorem stepRefusesWhatIsNoSample : Obligations.StepRefusesWhatIsNoSample := by
  refine ⟨fun s h => step_of_fetch_error (fetch_nil h), fun s f rest h h3 h16 => ?_, fun s f rest h h3 h16 hs => ?_⟩
  · exact step_of_fetch_error (fetch_error h (decodeFrame_reserved h3 h16))
  · rw [stepRunsTheDecodedOperation s f rest _ h (decodeFrame_read h3)]
    exact absentReadPortRefused.2 _ _ _ hs (one_le_toNat_port h16)

/-- Settles O54: such a state is not legal, and only RESET does not ask for a legal one. -/
theorem unreachableStatesRefused : Obligations.UnreachableStatesRefused := by
  intro s h
  have hs := State.legal_eq_false_iff.mpr h
  exact ⟨exec_of_not_legal Instr.noConfusion hs, fun _ => exec_of_not_legal Instr.noConfusion hs,
    fun _ _ => exec_of_not_legal Instr.noConfusion hs, _, exec_reset_eq s, resetRegisters_legal s⟩

end Sys2Proof.Machine

/-! ## Proofs: exceptions and events (60_exceptions.md) -/

namespace Sys2Proof.Machine

/-! ### The events of a commit (R146) -/

/-- A complete group is an adjacency that counts a stored 2 up, so the group event is the only one and CG starts again
at 0. -/
theorem cont_of_evG {p : Params} {last t : BlockType} {cg : BitVec 2} (hcg : cg.toNat ≤ 2)
    (h : (cont p last cg t).evG = true) : cont p last cg t = { cg := 0#2, evA := false, evB := false, evG := true } := by
  by_cases hb : t = .b
  · rw [hb, cont_b] at h
    cases h
  by_cases hc : (t = .c ∨ t = .cp) ∧ last = .b
  · obtain ⟨ht, rfl⟩ := hc
    rw [cont_after_b hcg ht] at h ⊢
    rw [beq_iff_eq.mp h]
    rfl
  by_cases hd : t = .d ∧ (last = .c ∨ last = .cp) ∧ (p.dRequiresFull = false ∨ cg = 2#2)
  · obtain ⟨rfl, hl, hfull⟩ := hd
    rw [cont_d hcg hl hfull] at h ⊢
    rw [beq_iff_eq.mp h]
    rfl
  by_cases ha : t = .a ∧ p.aBreaksContinuity = false
  · rw [ha.1, cont_exempt_a hcg ha.2] at h
    cases h
  · rw [cont_break hb hc hd ha] at h
    cases h

/-! ### The commit outputs (R122, R147) -/

/-- A known syndrome is the one of the committed type (R94, R114). -/
theorem eq_synTab_commitType {p : Params} {syn : Word10} (h : known p syn = true) (last : BlockType) :
    syn = synTab p (commitType p last syn) := by
  obtain ⟨t, ht⟩ := Option.isSome_iff_exists.mp h
  rw [commitType_known ht]
  exact detect_some ht

/-- Clearing the strobes takes the events with O_VALID and leaves what describes the last commit. -/
theorem State.OutInv.clearStrobes {p : Params} {s : State} (h : s.OutInv p) : s.clearStrobes.OutInv p := by
  obtain ⟨htype, hslot, hknown, -⟩ := h
  exact ⟨htype, hslot, hknown, fun _ => ⟨rfl, rfl, rfl⟩, nofun, nofun⟩

/-- A commit describes itself, whatever the outputs were. CG must be one that LAST can leave: it makes a group event
one of a D. -/
theorem commit_outInv {s : State} {last : BlockType} (hl : s.last = last.code) (hs : s.ContInv) (w : BlockWord)
    (n : Nat) : (commit Config.params last w (syndrome w) n s).OutInv Config.params := by
  refine ⟨rfl, ?_, fun hk => ?_, by simp, fun _ => ?_, fun hg => ?_⟩
  · rw [commit_last, State.readSel_code, commit_slotRead_same, commit_oWord, commit_oAvail]
  · rw [commit_oKnown] at hk
    have hsyn := eq_synTab_commitType hk last
    rw [commit_oAvail, commit_last, commit_oSyn, correct_of_syndrome_eq_synTab hsyn]
    exact ⟨rfl, _, rfl, hsyn⟩
  · rw [commit_oEva, commit_last, BlockType.code_inj]
    exact beq_iff_eq
  · rw [commit_oEvg] at hg
    obtain ⟨ht, h2⟩ := ((State.contInv_iff hl).mp hs).of_cont_evG hg
    rw [commit_last, commit_cg, commit_oEva, commit_oEvb, cont_of_evG (by rw [h2]; decide) hg, ht]
    exact ⟨rfl, rfl, rfl, rfl⟩

/-- Every operation keeps the outputs precise: RESET and a commit write them all, the others no more than clear the
strobes. -/
theorem exec_outInv {i : Instr} {s t : State} (hc : s.ContInv) (hs : s.OutInv Config.params)
    (h : exec i s = .next t) : t.OutInv Config.params := by
  cases i with
  | reset => cases (exec_reset_eq s).symm.trans h; exact resetRegisters_outInv _ s
  | idle => obtain ⟨-, rfl⟩ := exec_idle_next.mp h; exact hs.clearStrobes
  | read port sel => obtain ⟨-, -, rfl⟩ := exec_read_next.mp h; exact hs
  | sym b =>
    obtain ⟨-, last, hl, rfl⟩ := exec_sym_next.mp h
    obtain ⟨sync, skip, e⟩ | ⟨n, e⟩ := stepSym_held_or_commit Config.params last b s <;> rw [e]
    · exact hs.clearStrobes
    · exact commit_outInv hl hc ..

/-! ### The obligations -/

/-- Settles O58: taking the sample changes no register, and its operation keeps the outputs precise. -/
theorem stepKeepsTheOutputsPrecise : Obligations.StepKeepsTheOutputsPrecise := by
  intro s t hc hs h
  obtain ⟨f, rest, i, -, -, hx⟩ := step_next h
  exact exec_outInv (s := { s with inputs := rest }) hc hs hx

/-- Settles O21: `cont_of_evG` excludes the other sets, and one commit raises each of the five. -/
theorem simultaneousEvents : Obligations.SimultaneousEvents := by
  have halone (p : Params) (l ty : BlockType) (cg : BitVec 2) (hcg : cg.toNat ≤ 2)
      (hg : (cont p l cg ty).evG = true) : (cont p l cg ty).evA = false ∧ (cont p l cg ty).evB = false := by
    rw [cont_of_evG hcg hg]
    exact ⟨rfl, rfl⟩
  refine ⟨halone, fun a b g => ⟨?_, ?_⟩⟩
  · rintro ⟨l, ty, cg, hcg, rfl, rfl, rfl⟩
    exact (Bool.eq_false_or_eq_true _).symm.imp_right (halone _ l ty cg hcg)
  · intro h
    cases g with
    | false =>
      cases a <;> cases b
      · exact ⟨.a, .b, 0#2, by decide, rfl, rfl, rfl⟩
      · exact ⟨.b, .d, 1#2, by decide, rfl, rfl, rfl⟩
      · exact ⟨.d, .a, 0#2, by decide, rfl, rfl, rfl⟩
      · exact ⟨.b, .a, 1#2, by decide, rfl, rfl, rfl⟩
    | true =>
      obtain ⟨rfl, rfl⟩ := h.resolve_left (Bool.false_ne_true ·.symm)
      exact ⟨.c, .d, 2#2, by decide, rfl, rfl, rfl⟩

/-- Settles O53: the default configuration has distinct type syndromes, which `execAt_completes` asks for. -/
theorem everyOperationCompletes : Obligations.EveryOperationCompletes := by
  intro i s hi hs
  rw [exec_eq_execAt]
  exact execAt_completes params_syndromesDistinct hi hs

end Sys2Proof.Machine
